-- ==== Sys2Proof/Word.lean ====
section
/-! DEFINITION. The word types of the segment codec: bytes of the frame, the 16-bit words the checksum sums,
the 32-bit registers and the 13-bit addresses of the host port. -/

namespace Sys2Proof

/-- One byte of the frame buffer (R29). -/
abbrev Byte := BitVec 8

/-- One 16-bit word of the frame: Word0, the checksum field, a summed word (R60, R62, R69). -/
abbrev Half := BitVec 16

/-- One 32-bit register of the host port, or the data of a 32-bit transaction (R16, R39). -/
abbrev Word := BitVec 32

/-- A byte address of the host port: 13 bits, 0x0000 to 0x1FFF (R35). -/
abbrev Addr := BitVec 13

end Sys2Proof
end

