-- ==== Sys2Proof/Config.lean ====
section
/-! DEFINITION. The implementation parameters of R6 as one configuration record. This hardware's values are
`Sys2Proof.Machine.hw` (Sys2Proof/Machine/Params.lean), R7's constraints are `Config.wf` (Sys2Proof/WellFormed.lean). -/

namespace Sys2Proof

/-- The parameters of R6. `FRAME_LEN` is derived (`Config.frameLen`) and never set independently. -/
structure Config where
  /-- `HEADER_LEN`, bytes; fixed by the layout (bytes 0-5). -/
  headerLen : Nat
  /-- `MAX_PAYLOAD_LEN`, bytes; the literal the requester calls unaudited (D2). -/
  maxPayloadLen : Nat
  /-- `VERSION`, the 2-bit version field of every frame. -/
  version : BitVec 2
  /-- `SEQ_BITS`, the width of a sequence number; not to be widened silently. -/
  seqBits : Nat
  /-- `LEN_BITS`, the width of the LENGTH field; fixed by the layout. -/
  lenBits : Nat
  /-- host address width, bits (D3). -/
  addrBits : Nat
  /-- host data width of the register window, bits (D4). -/
  regDataBits : Nat
  /-- host data width of the frame window, bits (D4). -/
  frameDataBits : Nat
  /-- width of the checksum sum accumulator, bits: at least 32 (D26), the implementation's parameter; not visible, since the
  model's sum is exact (its value in `hw` is a DESIGN CHOICE, log entry 17). -/
  accBits : Nat
  deriving DecidableEq, Repr

/-- `FRAME_LEN = HEADER_LEN + MAX_PAYLOAD_LEN` (R6). -/
def Config.frameLen (c : Config) : Nat := c.headerLen + c.maxPayloadLen

/-- `CMD_LATENCY_MAX`, the bound on the duration of a CMD write that the spec leaves OPEN (R117, D20). No rule
reads it, and nothing in this model does: it has no body, so no statement can rest on its value. -/
opaque cmdLatencyMax : Nat

end Sys2Proof
end

