-- ==== Sys2Proof/Syntax.lean ====
section
/-! DEFINITION. The command set: one constructor for each of the 16 rows of spec/opcode_table.json (R56). The command
word has no immediate, register or mode field, and every operand is implicit (R54, R57), so no constructor has an
argument. -/

namespace Sys2Proof

/-- The commands a Write32 to CMD can start (R56): four commands and the twelve reserved codes, which R58 and R92
give a meaning of their own (they fail with ILLEGAL_CMD). -/
inductive Instr where
  /-- NOP, OP 0x0 (R91). -/
  | nop
  /-- ENCODE, OP 0x1 (R77). -/
  | encode
  /-- DECODE, OP 0x2 (R83). -/
  | decode
  /-- CSUM, OP 0x3 (R73). -/
  | csum
  /-- RESERVED_4, OP 0x4 (R92). -/
  | reserved4
  /-- RESERVED_5, OP 0x5 (R92). -/
  | reserved5
  /-- RESERVED_6, OP 0x6 (R92). -/
  | reserved6
  /-- RESERVED_7, OP 0x7 (R92). -/
  | reserved7
  /-- RESERVED_8, OP 0x8 (R92). -/
  | reserved8
  /-- RESERVED_9, OP 0x9 (R92). -/
  | reserved9
  /-- RESERVED_A, OP 0xA (R92). -/
  | reservedA
  /-- RESERVED_B, OP 0xB (R92). -/
  | reservedB
  /-- RESERVED_C, OP 0xC (R92). -/
  | reservedC
  /-- RESERVED_D, OP 0xD (R92). -/
  | reservedD
  /-- RESERVED_E, OP 0xE (R92). -/
  | reservedE
  /-- RESERVED_F, OP 0xF (R92). -/
  | reservedF
  deriving DecidableEq, Repr

end Sys2Proof
end

