-- ==== Sys2Proof/WellFormed.lean ====
section
/-! DEFINITION. Well-formedness: a configuration is one of this hardware only under R7 and the fixed rows of R6;
a command has no field that could be ill-formed. (The canonical form of memory is `Machine.Memory.wf`, the invariant of
the whole state is `Machine.State.wf`.) -/

namespace Sys2Proof

/-- A configuration of this hardware: the values R6 fixes by the layout and by D3, D4, and the four
inequalities of R7 (and D26's accumulator of at least 32 bits). Anything else is refused. -/
def Config.wf (c : Config) : Bool :=
  c.headerLen == 6 && c.lenBits == 11 && c.addrBits == 13 && c.regDataBits == 32 && c.frameDataBits == 8
    && c.version == 1#2
    && decide (c.maxPayloadLen ≤ 2047)
    && decide (c.frameLen ≤ 4096)
    && decide (c.frameLen ≤ 131074)
    && decide (c.seqBits ≤ 8)
    && decide (32 ≤ c.accBits)

/-- Every command is well-formed: none has an operand field, and bits 31:4 of the word are ignored (R54). -/
def Instr.wf : Instr → Bool
  | .nop | .encode | .decode | .csum
  | .reserved4 | .reserved5 | .reserved6 | .reserved7 | .reserved8 | .reserved9
  | .reservedA | .reservedB | .reservedC | .reservedD | .reservedE | .reservedF => true

end Sys2Proof
end

