-- ==== Sys2Proof/Decode.lean ====
section
/-! DEFINITION. The command word of R53 to R58: the decoder (from `OP = v[3:0]` alone), the encoder, and the entry
`decodeTableWord` that numbers bits as spec/opcode_table.json does. -/

namespace Sys2Proof

/-- The value of `OP` of each command (R56). -/
def opcode : Instr → BitVec 4
  | .nop => 0x0#4
  | .encode => 0x1#4
  | .decode => 0x2#4
  | .csum => 0x3#4
  | .reserved4 => 0x4#4
  | .reserved5 => 0x5#4
  | .reserved6 => 0x6#4
  | .reserved7 => 0x7#4
  | .reserved8 => 0x8#4
  | .reserved9 => 0x9#4
  | .reservedA => 0xA#4
  | .reservedB => 0xB#4
  | .reservedC => 0xC#4
  | .reservedD => 0xD#4
  | .reservedE => 0xE#4
  | .reservedF => 0xF#4

/-- The command a 4-bit code selects (R56). Every code has a row, so nothing is rejected; the last arm is code 15,
the only value below 16 that the arms before it leave. -/
def commandOfOp (op : BitVec 4) : Instr :=
  match op.toNat with
  | 0 => .nop
  | 1 => .encode
  | 2 => .decode
  | 3 => .csum
  | 4 => .reserved4
  | 5 => .reserved5
  | 6 => .reserved6
  | 7 => .reserved7
  | 8 => .reserved8
  | 9 => .reserved9
  | 10 => .reservedA
  | 11 => .reservedB
  | 12 => .reservedC
  | 13 => .reservedD
  | 14 => .reservedE
  | _ => .reservedF

/-- The command of a command word: `OP = v[3:0]`, and bits 31:4 are ignored (R53, R54, R58). -/
def decode (v : Word) : Instr := commandOfOp (v.extractLsb' 0 4)

/-- The command word software should write for a command: OP in bits 3:0, bits 31:4 zero (R54; DEDUCED, log entry 7). -/
def encode (i : Instr) : Word := (opcode i).setWidth 32

/-- Why a string of bits is no command word. -/
inductive DecodeRefusal where
  /-- Longer than the one 32-bit format of R53. Safe: no such write exists on the port (R38). -/
  | longerThanCommandWord
  deriving DecidableEq, Repr

/-- The command in a string of `nbits` bits with value `w`, the bits above `nbits` zero. R53 gives one format, of
32 bits, so a longer string is rejected by name (DESIGN CHOICE, log entry 12). -/
def decodeBits (nbits w : Nat) : Except DecodeRefusal Instr :=
  if nbits ≤ 32 then .ok (decode (BitVec.ofNat 32 (w % 2 ^ nbits))) else .error .longerThanCommandWord

/-- The host's entry: the command read from the bits `w` as spec/opcode_table.json numbers them. -/
def decodeTableWord (nbits w : Nat) : Option Instr :=
  match decodeBits nbits w with
  | .ok i => some i
  | .error _ => none

end Sys2Proof
end

