-- ==== Sys2Proof/Machine/State.lean ====
section
/-! DEFINITION. The state of the segment codec as plain data (R15, R16, R29), the inputs and responses of its host port
(R12, R13, R38, R109), the error causes of R96, and the state after reset (R34). -/

namespace Sys2Proof.Machine

/-- The command error causes of R96; their codes are `causeCode`. Codes 6 to 15 are never produced, and there is no
constructor that could. -/
inductive Cause where
  /-- No error (success). -/
  | none
  /-- DECODE: `RX_SIZE.SIZE` is not `FRAME_LEN` (R84). -/
  | badSize
  /-- DECODE: the verification result is not 0 (R85). -/
  | badCsum
  /-- DECODE: VERSION is not 1 (R86). -/
  | badVersion
  /-- ENCODE: `TX_HDR.LEN` above `MAX_PAYLOAD_LEN` (R82); CSUM: `CS_LEN.N` above `FRAME_LEN` (R73). -/
  | lenRange
  /-- A reserved OP (R92). -/
  | illegalCmd
  deriving DecidableEq, Repr

/-- The eight registers of R16. -/
inductive Reg where
  | cmd | status | txHdr | rxHdr | csum | rxSize | csLen | plen
  deriving DecidableEq, Repr

/-- One access of the host port: the four transactions of R39, and the 16-bit accesses that R38 names and refuses
(DEDUCED, log entry 6). -/
inductive Transaction where
  /-- Read32(a). -/
  | read32 (a : Addr)
  /-- Write32(a, v); at CMD it starts a command. -/
  | write32 (a : Addr) (v : Word)
  /-- Read8(a). -/
  | read8 (a : Addr)
  /-- Write8(a, v), carrying v[7:0]. -/
  | write8 (a : Addr) (v : Byte)
  /-- A 16-bit read: refused everywhere (R38). -/
  | read16 (a : Addr)
  /-- A 16-bit write: refused everywhere (R38). -/
  | write16 (a : Addr) (v : Half)
  deriving DecidableEq, Repr

/-- What the outside world does to the block: a transaction on the port, or the one reset input (R12, R109). -/
inductive HostInput where
  | access (t : Transaction)
  | reset
  deriving DecidableEq, Repr

/-- The response of the port to one transaction (R13): `Ok`, with data for a read, or `BusError`. -/
inductive Response where
  /-- `Ok` of a write. -/
  | ok
  /-- `Ok` of a Read32, with its 32-bit data. -/
  | data32 (v : Word)
  /-- `Ok` of a Read8, with its 8-bit data. -/
  | data8 (v : Byte)
  /-- `BusError`: no data, no state change (R40). -/
  | busError
  deriving DecidableEq, Repr

/-- The frame buffer as (frame index, byte) pairs in the canonical form `Memory.wf`: the cell of index `i` is
`FRAME[i]`, at port address `0x1000 + i` (R37). A byte not listed reads as `Memory.unlisted` (DEDUCED, log entry 13). -/
abbrev Memory := List Host.Cell

/-- Why the block stops with a fault: never. No rule of the spec stops it: a command error is reported in STATUS
(R97), a refused transaction in its response (R40), and every command terminates (R116). So there is no constructor
(DEDUCED, log entries 3 and 14). Safe: no behaviour of the spec is cut off. -/
inductive Fault where
  deriving DecidableEq, Repr

/-- Why the block has no meaning for a command. -/
inductive Refusal where
  /-- Raised by an arm of `exec` whose command is not modelled; no arm does (every row has its meaning). Safe. -/
  | notModelled (mnemonic : String)
  deriving DecidableEq, Repr

/-- The whole state. R15: the registers (CMD holds no value, R17) and the frame buffer. The last two fields are the
MODEL's own, the two ends of the host port: what the host has yet to do, and the response it got last
(DESIGN CHOICE, log entries 1 and 2). -/
structure State where
  /-- STATUS, offset 0x004 (R18). -/
  status : Word
  /-- TX_HDR, offset 0x008 (R19). -/
  txHdr : Word
  /-- RX_HDR, offset 0x00C (R25). -/
  rxHdr : Word
  /-- CSUM, offset 0x010 (R26). -/
  csum : Word
  /-- RX_SIZE, offset 0x014 (R22). -/
  rxSize : Word
  /-- CS_LEN, offset 0x018 (R24). -/
  csLen : Word
  /-- PLEN, offset 0x01C (R27). -/
  plen : Word
  /-- FRAME[0 .. FRAME_LEN-1] (R29). -/
  frame : Memory
  /-- The inputs the host will give, the next one first; each step takes one (R12, R47). -/
  pending : List HostInput
  /-- The response to the last transaction since reset, if there was one (R13). -/
  response : Option Response
  deriving DecidableEq, Repr

/-- The state after reset (R34, R109): TX_HDR is 0x40000000, every other register 0, every frame byte 0x00 (so
nothing is listed); the host has issued nothing. -/
def State.reset : State where
  status := 0x00000000#32
  txHdr := 0x40000000#32
  rxHdr := 0x00000000#32
  csum := 0x00000000#32
  rxSize := 0x00000000#32
  csLen := 0x00000000#32
  plen := 0x00000000#32
  frame := []
  pending := []
  response := none

end Sys2Proof.Machine
end

