-- ==== Sys2Proof/Machine/Flags.lean ====
section
/-! DEFINITION. The flags of the block: the STATUS fields ERR, VALID, CAUSE and LASTOP (R18, R33), the cause codes
(R96), and the two words a command writes there, on success (R33) and on failure (R97). -/

namespace Sys2Proof.Machine

/-- The code of a cause in STATUS.CAUSE (R96). -/
def causeCode : Cause → BitVec 4
  | .none => 0#4
  | .badSize => 1#4
  | .badCsum => 2#4
  | .badVersion => 3#4
  | .lenRange => 4#4
  | .illegalCmd => 5#4

/-- STATUS assembled from its fields, the reserved bits 31:12 and 3:2 zero (R18). -/
def statusWord (lastOp cause : BitVec 4) (valid err : Bool) : Word :=
  0#20 ++ lastOp ++ cause ++ 0#2 ++ BitVec.ofBool valid ++ BitVec.ofBool err

/-- STATUS.ERR, bit 0 (R18). -/
def statusErr (w : Word) : Bool := w.getLsbD 0

/-- STATUS.VALID, bit 1 (R18). -/
def statusValid (w : Word) : Bool := w.getLsbD 1

/-- STATUS.CAUSE, bits 7:4 (R18). -/
def statusCause (w : Word) : BitVec 4 := w.extractLsb' 4 4

/-- STATUS.LASTOP, bits 11:8 (R18). -/
def statusLastOp (w : Word) : BitVec 4 := w.extractLsb' 8 4

/-- STATUS after command `op` succeeded: ERR = 0, CAUSE = 0, LASTOP = op, and VALID = 1 for DECODE only (R33). -/
def successStatus (op : BitVec 4) (valid : Bool) : Word := statusWord op (causeCode .none) valid false

/-- STATUS after command `op` failed with a cause: ERR = 1, VALID = 0 (R97). -/
def errorStatus (op : BitVec 4) (c : Cause) : Word := statusWord op (causeCode c) false true

end Sys2Proof.Machine
end

