-- ==== Sys2Proof/Machine/Params.lean ====
section
/-! DEFINITION. This hardware's configuration: the value column of R6, and the one value R6 leaves to the implementation. -/

namespace Sys2Proof.Machine

/-- The parameters of R6 at this hardware's values. R6 and D26 bound the accumulator width only from below ("at least 32
bits"); that it is exactly 32 is the model's choice, and nothing but `Config.wf` reads it (DESIGN CHOICE, safe: log
entry 17). -/
def hw : Config where
  headerLen := 6
  maxPayloadLen := 1440
  version := 1#2
  seqBits := 6
  lenBits := 11
  addrBits := 13
  regDataBits := 32
  frameDataBits := 8
  accBits := 32

end Sys2Proof.Machine
end

