-- ==== Sys2Proof/Machine/Operands.lean ====
section
/-! DEFINITION. Operand forms: the fields of the registers (R19, R22, R24, R25), of Word0 (R60, R65), the header the
encoder assembles (R64), and the write masks of the register window (R39). -/

namespace Sys2Proof.Machine

/-- VER of TX_HDR and RX_HDR, bits 31:30 (R19, R25). -/
def hdrVer (h : Word) : BitVec 2 := h.extractLsb' 30 2

/-- SYN of TX_HDR and RX_HDR, bit 29. -/
def hdrSyn (h : Word) : Bool := h.getLsbD 29

/-- FIN of TX_HDR and RX_HDR, bit 28. -/
def hdrFin (h : Word) : Bool := h.getLsbD 28

/-- ACK of TX_HDR and RX_HDR, bit 27. -/
def hdrAck (h : Word) : Bool := h.getLsbD 27

/-- LEN of TX_HDR and RX_HDR, bits 26:16 (R19, R25). -/
def hdrLen (h : Word) : BitVec 11 := h.extractLsb' 16 11

/-- SEQ of TX_HDR, bits 13:8 (R19). -/
def txHdrSeq (h : Word) : BitVec 6 := h.extractLsb' 8 6

/-- ACKN of TX_HDR, bits 5:0 (R19). -/
def txHdrAckn (h : Word) : BitVec 6 := h.extractLsb' 0 6

/-- SEQ of RX_HDR, the raw byte in bits 15:8 (R25). -/
def rxHdrSeq (h : Word) : Byte := h.extractLsb' 8 8

/-- ACKN of RX_HDR, the raw byte in bits 7:0 (R25). -/
def rxHdrAckn (h : Word) : Byte := h.extractLsb' 0 8

/-- `RX_SIZE.SIZE`, bits 15:0, an unsigned byte count (R22, R55). -/
def rxSizeSize (r : Word) : Half := r.extractLsb' 0 16

/-- `CS_LEN.N`, bits 15:0, an unsigned byte count (R24, R55). -/
def csLenN (r : Word) : Half := r.extractLsb' 0 16

/-- VERSION of Word0, `w0[15:14]` (R60). -/
def w0Version (w : Half) : BitVec 2 := w.extractLsb' 14 2

/-- LENGTH of Word0, `w0[10:0]` (R60). -/
def w0Len (w : Half) : BitVec 11 := w.extractLsb' 0 11

/-- Word0 as the encoder assembles it: VERSION, SYN, FIN, ACK, LEN from the high end (R64). -/
def assembleW0 (ver : BitVec 2) (syn fin ack : Bool) (len : BitVec 11) : Half :=
  ver ++ BitVec.ofBool syn ++ BitVec.ofBool fin ++ BitVec.ofBool ack ++ len

/-- The first four frame bytes assembled field by field: Word0, then `zext_8` of SEQ and of ACKN (R64). -/
def assembleHeader (ver : BitVec 2) (syn fin ack : Bool) (len : BitVec 11) (seq ackn : BitVec 6) : Word :=
  assembleW0 ver syn fin ack len ++ seq.setWidth 8 ++ ackn.setWidth 8

/-- The 1-bits of a sequence number's width: `SEQ_BITS` low ones (R6, R20). -/
def seqMask (c : Config) : Word := BitVec.ofNat 32 (2 ^ c.seqBits - 1)

/-- `wmask(r)` of R39: the bits a host write can change. For TX_HDR they are SYN, FIN, ACK, LEN (bits 29:16), SEQ and
ACKN, of `SEQ_BITS` bits each: 0x3FFF3F3F on this hardware (DEDUCED for another `SEQ_BITS`, log entry 8). -/
def writeMask (c : Config) : Reg → Word
  | .cmd => 0x00000000#32
  | .status => 0x00000000#32
  | .txHdr => 0x3FFF0000#32 ||| (seqMask c <<< 8) ||| seqMask c
  | .rxHdr => 0x00000000#32
  | .csum => 0x00000000#32
  | .rxSize => 0x0000FFFF#32
  | .csLen => 0x0000FFFF#32
  | .plen => 0x00000000#32

/-- `wset(r)` of R39: the bits a host write forces to one. For TX_HDR it is VER = VERSION: 0x40000000 here. -/
def writeSet (c : Config) : Reg → Word
  | .cmd => 0x00000000#32
  | .status => 0x00000000#32
  | .txHdr => c.version.setWidth 32 <<< 30
  | .rxHdr => 0x00000000#32
  | .csum => 0x00000000#32
  | .rxSize => 0x00000000#32
  | .csLen => 0x00000000#32
  | .plen => 0x00000000#32

end Sys2Proof.Machine
end

