-- ==== Sys2Proof/Machine/Ops.lean ====
section
/-! DEFINITION. The named operations over the frame buffer and the registers (R10, R39), and `raise CmdError` (R97),
the one way a command ends early. There is no return from it: no handler runs and no operation returns (R100). -/

namespace Sys2Proof.Machine

/-- What a frame byte not listed reads as: its reset value 0x00 (R30, R34). -/
def Memory.unlisted : Byte := 0x00#8

/-- `FRAME[a]` (R10). -/
def Memory.read : Memory → Nat → Byte
  | [], _ => Memory.unlisted
  | (k, x) :: m, a => if a = k then x else Memory.read m a

/-- `FRAME[a] <- b` (R10), keeping the canonical form: the value an unlisted byte reads as is not listed. -/
def Memory.write : Memory → Nat → Byte → Memory
  | [], a, b => if b = Memory.unlisted then [] else [(a, b)]
  | (k, x) :: m, a, b =>
    if a < k then (if b = Memory.unlisted then (k, x) :: m else (a, b) :: (k, x) :: m)
    else if a = k then (if b = Memory.unlisted then m else (a, b) :: m)
    else (k, x) :: Memory.write m a b

/-- The canonical form: addresses strictly rising, and no entry equal to what an unlisted address reads as. -/
def Memory.wf : Memory → Bool
  | [] => true
  | (k, x) :: m => decide (x ≠ Memory.unlisted) && m.all (fun cell => decide (k < cell.1)) && Memory.wf m

/-- Every listed address lies below `n`. -/
def Memory.within (n : Nat) (m : Memory) : Bool := m.all fun cell => decide (cell.1 < n)

/-- `FRAME[i] <- 0x00` for every `i` in `lo .. hi-1`: the encoder's zero padding (R77). -/
def Memory.zero (m : Memory) (lo hi : Nat) : Memory :=
  m.filter fun cell => decide (cell.1 < lo) || decide (hi ≤ cell.1)

/-- `MemRead(a, 2)`, big-endian (R10). -/
def Memory.read16 (m : Memory) (a : Nat) : Half := m.read a ++ m.read (a + 1)

/-- `MemRead(a, 4)`, big-endian (R10). -/
def Memory.read32 (m : Memory) (a : Nat) : Word :=
  m.read a ++ m.read (a + 1) ++ m.read (a + 2) ++ m.read (a + 3)

/-- `MemWrite(a, 2, v)`, big-endian (R10). -/
def Memory.write16 (m : Memory) (a : Nat) (v : Half) : Memory :=
  (m.write a (v.extractLsb' 8 8)).write (a + 1) (v.extractLsb' 0 8)

/-- `MemWrite(a, 4, v)`, big-endian (R10). -/
def Memory.write32 (m : Memory) (a : Nat) (v : Word) : Memory :=
  (((m.write a (v.extractLsb' 24 8)).write (a + 1) (v.extractLsb' 16 8)).write (a + 2)
    (v.extractLsb' 8 8)).write (a + 3) (v.extractLsb' 0 8)

/-- The byte sequence `FRAME[a .. a+n-1]`, empty for `n = 0` (R10, R11). -/
def Memory.bytes (m : Memory) : Nat → Nat → List Byte
  | _, 0 => []
  | a, n + 1 => m.read a :: Memory.bytes m (a + 1) n

/-- `x[r]`: the value of a register; CMD holds none and reads 0 (R16, R17). -/
def readReg (s : State) : Reg → Word
  | .cmd => 0x00000000#32
  | .status => s.status
  | .txHdr => s.txHdr
  | .rxHdr => s.rxHdr
  | .csum => s.csum
  | .rxSize => s.rxSize
  | .csLen => s.csLen
  | .plen => s.plen

/-- `x[r] <- v`: every bit of a register set at once; CMD stores nothing (R10, R17, R43). -/
def setReg (s : State) (r : Reg) (v : Word) : State :=
  match r with
  | .cmd => s
  | .status => { s with status := v }
  | .txHdr => { s with txHdr := v }
  | .rxHdr => { s with rxHdr := v }
  | .csum => { s with csum := v }
  | .rxSize => { s with rxSize := v }
  | .csLen => { s with csLen := v }
  | .plen => { s with plen := v }

/-- A host write of `v` to a register that starts no command: the writable bits from `v`, the forced bits one, the
others kept (R39). -/
def hostWriteReg (c : Config) (s : State) (r : Reg) (v : Word) : State :=
  setReg s r ((readReg s r &&& ~~~ writeMask c r) ||| (v &&& writeMask c r) ||| writeSet c r)

/-- `raise CmdError(cause)` during command `op` (R97): STATUS records the failure, a failing DECODE clears RX_HDR and
PLEN, and nothing else changes: every write the command made before stays. -/
def raiseCmdError (op : BitVec 4) (cause : Cause) (s : State) : State :=
  if op = opcode .decode then
    { s with status := errorStatus op cause, rxHdr := 0x00000000#32, plen := 0x00000000#32 }
  else { s with status := errorStatus op cause }

/-- The port answers the transaction (R13). -/
def State.respond (s : State) (r : Response) : State := { s with response := some r }

end Sys2Proof.Machine
end

