-- ==== Sys2Proof/Machine/Checksum.lean ====
section
/-! DEFINITION. The one's-complement checksum function (R69) and the CSUM command (R73). -/

namespace Sys2Proof.Machine

/-- The exact sum `S` of the consecutive 16-bit big-endian words of a byte sequence; an odd last byte is the high byte
of a word whose low byte is 0 (R69, R70). -/
def wordSum : List Byte → Nat
  | [] => 0
  | [x] => x.toNat * 256
  | x :: y :: rest => (x.toNat * 256 + y.toNat) + wordSum rest

/-- One fold of the carries out of bit 16 into the low 16 bits (R69). -/
def fold16 (f : Nat) : Nat := (f &&& 0xFFFF) + (f >>> 16)

/-- `csum16(b)`: sum, fold twice, complement to 16 bits (R69). -/
def csum16 (b : List Byte) : Half := ~~~ BitVec.ofNat 16 (fold16 (fold16 (wordSum b)))

/-- CSUM: the checksum of the first `CS_LEN.N` frame bytes (R73). -/
def runCsum (c : Config) (s : State) : State :=
  if c.frameLen < (csLenN s.csLen).toNat then
    raiseCmdError (opcode .csum) .lenRange s
  else
    { s with
      csum := (csum16 (s.frame.bytes 0 (csLenN s.csLen).toNat)).setWidth 32
      status := successStatus (opcode .csum) false }

/-- CSUM on this hardware (R73). -/
def execCsum (s : State) : Host.Outcome State Fault Refusal := .next (runCsum hw s)

end Sys2Proof.Machine
end

