-- ==== Sys2Proof/Machine/Control.lean ====
section
/-! DEFINITION. The control commands: NOP (R91) and the twelve reserved codes (R92). -/

namespace Sys2Proof.Machine

/-- NOP: no state is read or written; STATUS, LASTOP included, is unchanged (R91). -/
def execNop (s : State) : Host.Outcome State Fault Refusal := .next s

/-- `RESERVED(op)`: raise ILLEGAL_CMD with LASTOP = op (R92). -/
def runReserved (op : BitVec 4) (s : State) : State := raiseCmdError op .illegalCmd s

/-- RESERVED_4 (R92). -/
def execReserved4 (s : State) : Host.Outcome State Fault Refusal := .next (runReserved (opcode .reserved4) s)

/-- RESERVED_5 (R92). -/
def execReserved5 (s : State) : Host.Outcome State Fault Refusal := .next (runReserved (opcode .reserved5) s)

/-- RESERVED_6 (R92). -/
def execReserved6 (s : State) : Host.Outcome State Fault Refusal := .next (runReserved (opcode .reserved6) s)

/-- RESERVED_7 (R92). -/
def execReserved7 (s : State) : Host.Outcome State Fault Refusal := .next (runReserved (opcode .reserved7) s)

/-- RESERVED_8 (R92). -/
def execReserved8 (s : State) : Host.Outcome State Fault Refusal := .next (runReserved (opcode .reserved8) s)

/-- RESERVED_9 (R92). -/
def execReserved9 (s : State) : Host.Outcome State Fault Refusal := .next (runReserved (opcode .reserved9) s)

/-- RESERVED_A (R92). -/
def execReservedA (s : State) : Host.Outcome State Fault Refusal := .next (runReserved (opcode .reservedA) s)

/-- RESERVED_B (R92). -/
def execReservedB (s : State) : Host.Outcome State Fault Refusal := .next (runReserved (opcode .reservedB) s)

/-- RESERVED_C (R92). -/
def execReservedC (s : State) : Host.Outcome State Fault Refusal := .next (runReserved (opcode .reservedC) s)

/-- RESERVED_D (R92). -/
def execReservedD (s : State) : Host.Outcome State Fault Refusal := .next (runReserved (opcode .reservedD) s)

/-- RESERVED_E (R92). -/
def execReservedE (s : State) : Host.Outcome State Fault Refusal := .next (runReserved (opcode .reservedE) s)

/-- RESERVED_F (R92). -/
def execReservedF (s : State) : Host.Outcome State Fault Refusal := .next (runReserved (opcode .reservedF) s)

end Sys2Proof.Machine
end

