-- ==== Sys2Proof/Machine/Decoder.lean ====
section
/-! DEFINITION. The frame decoder: DECODE (R83 to R90), and the payload it delivers (R65, R88). -/

namespace Sys2Proof.Machine

/-- The verification result `V`: the checksum of all `FRAME_LEN` bytes, the checksum field in place (R85, R76). -/
def verification (c : Config) (m : Memory) : Half := csum16 (m.bytes 0 c.frameLen)

/-- `min(LENGTH, MAX_PAYLOAD_LEN)`, the number of payload bytes delivered (R27, R88). -/
def deliveredLen (c : Config) (w0 : Half) : Nat := min (w0Len w0).toNat c.maxPayloadLen

/-- The checks of a datagram whose size passed: checksum, then version, the first that fails being reported; then the
outputs (R83, R98). CSUM already holds `V`. -/
def decodeVerified (c : Config) (s : State) : State :=
  if verification c s.frame ≠ 0x0000#16 then
    raiseCmdError (opcode .decode) .badCsum s
  else if w0Version (s.frame.read16 0) ≠ c.version then
    raiseCmdError (opcode .decode) .badVersion s
  else
    { s with
      rxHdr := s.frame.read32 0
      plen := BitVec.ofNat 32 (deliveredLen c (s.frame.read16 0))
      status := successStatus (opcode .decode) true }

/-- DECODE: validate the datagram in the frame buffer and extract its fields. The size check comes first and leaves
CSUM alone (R84); once it passed, CSUM receives `V` whether it verifies or not (R85). -/
def runDecode (c : Config) (s : State) : State :=
  if (rxSizeSize s.rxSize).toNat ≠ c.frameLen then
    raiseCmdError (opcode .decode) .badSize s
  else
    decodeVerified c { s with csum := (verification c s.frame).setWidth 32 }

/-- DECODE on this hardware (R83). -/
def execDecode (s : State) : Host.Outcome State Fault Refusal := .next (runDecode hw s)

/-- The payload the host reads after a successful DECODE: `FRAME[6 .. 6+PLEN-1]` (R65, R88). -/
def deliveredPayload (c : Config) (s : State) : List Byte := s.frame.bytes c.headerLen s.plen.toNat

end Sys2Proof.Machine
end

