-- ==== Sys2Proof/Machine/Encoder.lean ====
section
/-! DEFINITION. The frame encoder: ENCODE (R77 to R82). -/

namespace Sys2Proof.Machine

/-- The frame assembled around the payload in place, the checksum field still zero: padding from byte `6+LEN` on,
then Word0, SEQ_NUM and ACK_NUM from `h`, then bytes 4-5 zero (R77, R78). -/
def assembleFrame (c : Config) (m : Memory) (h : Word) : Memory :=
  ((m.zero (c.headerLen + (hdrLen h).toNat) c.frameLen).write32 0 h).write16 4 0x0000#16

/-- ENCODE: build the frame from TX_HDR and the payload, checksum all `FRAME_LEN` bytes, and write the checksum into
bytes 4-5 and CSUM (R77); a LEN above `MAX_PAYLOAD_LEN` fails before anything is written (R82). -/
def runEncode (c : Config) (s : State) : State :=
  if c.maxPayloadLen < (hdrLen s.txHdr).toNat then
    raiseCmdError (opcode .encode) .lenRange s
  else
    { s with
      frame := (assembleFrame c s.frame s.txHdr).write16 4
        (csum16 ((assembleFrame c s.frame s.txHdr).bytes 0 c.frameLen))
      csum := (csum16 ((assembleFrame c s.frame s.txHdr).bytes 0 c.frameLen)).setWidth 32
      status := successStatus (opcode .encode) false }

/-- ENCODE on this hardware (R77). -/
def execEncode (s : State) : Host.Outcome State Fault Refusal := .next (runEncode hw s)

end Sys2Proof.Machine
end

