-- ==== Sys2Proof/Machine/Port.lean ====
section
/-! DEFINITION. The host port: the address map (R36, R37), the transactions and their responses (R38 to R40), a command
word fetched from a Write32 to CMD (R17), the reset input (R109), and one input of the host taken whole (R12, R47). -/

namespace Sys2Proof.Machine

/-- `reg_at(a)`: the register at an aligned offset of the register window 0x000-0x01C, none elsewhere (R16, R36, R38). -/
def regAt (a : Addr) : Option Reg :=
  match a.toNat with
  | 0x000 => some .cmd
  | 0x004 => some .status
  | 0x008 => some .txHdr
  | 0x00C => some .rxHdr
  | 0x010 => some .csum
  | 0x014 => some .rxSize
  | 0x018 => some .csLen
  | 0x01C => some .plen
  | _ => none

/-- The offset of a register in the register window (R16). -/
def regOffset : Reg → Addr
  | .cmd => 0x000#13
  | .status => 0x004#13
  | .txHdr => 0x008#13
  | .rxHdr => 0x00C#13
  | .csum => 0x010#13
  | .rxSize => 0x014#13
  | .csLen => 0x018#13
  | .plen => 0x01C#13

/-- The first address of the frame window (R36). -/
def frameBase : Nat := 0x1000

/-- The frame index an address of the frame window maps to, `a - 0x1000`; none outside the window (R36, R37). -/
def frameIndex (c : Config) (a : Addr) : Option Nat :=
  if frameBase ≤ a.toNat ∧ a.toNat < frameBase + c.frameLen then some (a.toNat - frameBase) else none

/-- A Read32: the register's value, `BusError` where there is none (R39, R44). -/
def read32 (s : State) (a : Addr) : State :=
  match regAt a with
  | some r => s.respond (.data32 (readReg s r))
  | none => s.respond .busError

/-- A Write32 that starts no command: the masked write, accepted without effect on a read-only register (R39, R44). -/
def write32 (c : Config) (s : State) (a : Addr) (v : Word) : State :=
  match regAt a with
  | some r => (hostWriteReg c s r v).respond .ok
  | none => s.respond .busError

/-- A Read8: the frame byte, `BusError` outside the frame window (R39). -/
def read8 (c : Config) (s : State) (a : Addr) : State :=
  match frameIndex c a with
  | some i => s.respond (.data8 (s.frame.read i))
  | none => s.respond .busError

/-- A Write8: one whole frame byte, `BusError` outside the frame window (R39). -/
def write8 (c : Config) (s : State) (a : Addr) (v : Byte) : State :=
  match frameIndex c a with
  | some i => ({ s with frame := s.frame.write i v }).respond .ok
  | none => s.respond .busError

/-- Every transaction that starts no command (R38 to R40). A refused one changes nothing but the response. -/
def access (c : Config) (s : State) : Transaction → State
  | .read32 a => read32 s a
  | .write32 a v => write32 c s a v
  | .read8 a => read8 c s a
  | .write8 a v => write8 c s a v
  | .read16 _ => s.respond .busError
  | .write16 _ _ => s.respond .busError

/-- The command word a transaction carries: the data of a Write32 to CMD (R17, R53). -/
def commandWord : Transaction → Option Word
  | .write32 a v => if regAt a = some .cmd then some v else none
  | .read32 _ => none
  | .read8 _ => none
  | .write8 _ _ => none
  | .read16 _ => none
  | .write16 _ _ => none

/-- A command's CMD write completes `Ok` once the command is over, whether it failed or not (R17, R97). -/
def complete : Host.Outcome State Fault Refusal → Host.Outcome State Fault Refusal
  | .next s => .next (s.respond .ok)
  | .fault f => .fault f
  | .refused r => .refused r

/-- One transaction: a command run whole within its CMD write (R12), or a plain access. -/
def transact (s : State) (t : Transaction) : Host.Outcome State Fault Refusal :=
  match commandWord t with
  | some v => complete (exec (decode v) s)
  | none => .next (access hw s t)

/-- The reset input: every register and frame byte to its reset value, no response outstanding; what the host does
later is the host's own (R109; DESIGN CHOICE, log entry 4). -/
def resetInput (later : List HostInput) : State := { State.reset with pending := later }

/-- The next input of the host, taken whole before the one after it (R47); with none, the block is idle and keeps
all state (R108; DESIGN CHOICE, log entry 5). -/
def takeInput (s : State) : Host.Outcome State Fault Refusal :=
  match s.pending with
  | [] => .next s
  | .reset :: later => .next (resetInput later)
  | .access t :: later => transact { s with pending := later } t

/-- The Write32 to CMD that carries the command word with the bits `w`, the bits above `nbits` zero (R53). -/
def commandInput (nbits w : Nat) : HostInput :=
  .access (.write32 (regOffset .cmd) (BitVec.ofNat 32 (w % 2 ^ nbits)))

end Sys2Proof.Machine
end

