-- ==== Sys2Proof/Machine/Step.lean ====
section
/-! DEFINITION. One step of the machine: one input of the host, taken whole (R12). -/

namespace Sys2Proof.Machine

/-- The step: the next input of the host, or idling where there is none (`takeInput`). -/
def step (s : State) : Host.Outcome State Fault Refusal := Sys2Proof.Machine.takeInput s

/-- The state in which the host's next input is the Write32 to CMD of the given command word, so that the very next
step runs that command; every other field, and the inputs after it, unchanged (DESIGN CHOICE, log entry 1). -/
def State.withFetchWord (s : State) (nbits w : Nat) : State :=
  { s with pending := Sys2Proof.Machine.commandInput nbits w :: s.pending }

end Sys2Proof.Machine
end

