-- ==== Sys2Proof/Safety.lean ====
section
/-! DEFINITION. What counts as a good state and a safe step, in the terms the statements use. -/

namespace Sys2Proof.Machine

/-- The values STATUS ever has: 0 until the first command, then what some command other than NOP wrote: success of
ENCODE, DECODE or CSUM (R33), or a failure of one of the causes R96 gives that command. -/
def legalStatus (w : Word) : Bool :=
  [0x000#32, 0x100#32, 0x141#32, 0x202#32, 0x211#32, 0x221#32, 0x231#32, 0x300#32, 0x341#32,
    0x451#32, 0x551#32, 0x651#32, 0x751#32, 0x851#32, 0x951#32, 0xA51#32, 0xB51#32, 0xC51#32, 0xD51#32, 0xE51#32,
    0xF51#32].contains w

/-- The reserved bits of the host's registers hold what they read as: VER of TX_HDR is 1, every other reserved bit 0
(R16, R19, R22, R24, R26). -/
def reservedOk (s : State) : Bool :=
  s.txHdr &&& 0xC000C0C0#32 == 0x40000000#32
    && s.csum &&& 0xFFFF0000#32 == 0#32
    && s.rxSize &&& 0xFFFF0000#32 == 0#32
    && s.csLen &&& 0xFFFF0000#32 == 0#32

/-- RX_HDR and PLEN are the outputs of one DECODE: zero, or a header of version 1; PLEN is RX_HDR.LEN clamped to
1440 (R25, R27, R28). -/
def decoderOutputsOk (s : State) : Bool :=
  (s.rxHdr == 0#32 || hdrVer s.rxHdr == 1#2)
    && s.plen == BitVec.ofNat 32 (min (hdrLen s.rxHdr).toNat 1440)

/-- STATUS describes the registers beside it: VALID means that RX_HDR holds a frame of version 1 and that the
verification result was 0; after a failed DECODE the outputs are 0; BAD_CSUM left a non-zero result in CSUM,
BAD_VERSION a zero one (R18, R97, R99). -/
def statusDescribes (s : State) : Bool :=
  (s.status != 0x202#32 || (hdrVer s.rxHdr == 1#2 && s.csum == 0#32))
    && (!([0x211#32, 0x221#32, 0x231#32].contains s.status) || (s.rxHdr == 0#32 && s.plen == 0#32))
    && (s.status != 0x221#32 || s.csum != 0#32)
    && (s.status != 0x231#32 || s.csum == 0#32)

/-- The invariant of the block: the frame buffer in canonical form and inside its 1446 bytes, STATUS a legal word that
describes the registers beside it, reserved bits as they read. -/
def State.wf (s : State) : Bool :=
  s.frame.wf && s.frame.within 1446 && legalStatus s.status && reservedOk s && decoderOutputsOk s && statusDescribes s

/-- A step is safe when it answers a next state: it neither faults nor refuses. -/
def SafeStep (s : State) : Prop := ∃ t, step s = .next t

/-- The accesses the port accepts, by address and width alone: an aligned 32-bit access to 0x000-0x01C, or an 8-bit access
to 0x1000-0x15A5 (R36, R38). -/
def portAccepts : Transaction → Bool
  | .read32 a => decide (a.toNat < 0x20 ∧ a.toNat % 4 = 0)
  | .write32 a _ => decide (a.toNat < 0x20 ∧ a.toNat % 4 = 0)
  | .read8 a => decide (0x1000 ≤ a.toNat ∧ a.toNat ≤ 0x15A5)
  | .write8 a _ => decide (0x1000 ≤ a.toNat ∧ a.toNat ≤ 0x15A5)
  | .read16 _ => false
  | .write16 _ _ => false

/-- The first input of the host is a Write32 of a word to CMD (offset 0x000) whose command is `i`. -/
def CommandNext (s : State) (i : Instr) : Prop :=
  ∃ v later, s.pending = .access (.write32 0x000#13 v) :: later ∧ decode v = i

/-- The first input of the host is the reset input. -/
def ResetNext (s : State) : Prop := ∃ later, s.pending = .reset :: later

/-- The bytes `FRAME[0 .. n-1]`, one read each. -/
def frameBytes (s : State) (n : Nat) : List Byte := (List.range n).map fun i => s.frame.read i

/-- A byte with bit `j` inverted. -/
def flipBit (b : Byte) (j : Nat) : Byte := b ^^^ (1#8 <<< j)

/-- The two bytes of a 16-bit word, big-endian (R11). -/
def wordBytes (w : Half) : List Byte := [w.extractLsb' 8 8, w.extractLsb' 0 8]

/-- One step of an incremental one's-complement sum with end-around carry (R72 item 4). -/
def endAroundAdd (acc w : Nat) : Nat := if 0xFFFF < acc + w then acc + w - 0xFFFF else acc + w

/-- The 16-bit words of a byte sequence, an odd last byte padded with a zero low byte (R69, R70). -/
def wordsOf : List Byte → List Nat
  | [] => []
  | [x] => [x.toNat * 256]
  | x :: y :: rest => (x.toNat * 256 + y.toNat) :: wordsOf rest

end Sys2Proof.Machine
end

