-- ==== Sys2Proof/Certificates/Slice0/Obligations.lean ====
section
/-! DEFINITION. The statements about the segment codec, each a def Obligations.<Name> : Prop with its rule in the docstring. -/

open Sys2Proof Sys2Proof.Machine

/-! ### The command word -/

/-- Words written out from the opcode map decode to the command of their bits 3:0 (R54, R56, R58). -/
def Obligations.CommandWordsDecode : Prop :=
  decode 0x00000000#32 = .nop ∧ decode 0xFFFFFFF0#32 = .nop ∧ decode 0x00000001#32 = .encode ∧
    decode 0xABCDEF01#32 = .encode ∧ decode 0x00000002#32 = .decode ∧ decode 0x00000003#32 = .csum ∧
    decode 0x00000004#32 = .reserved4 ∧ decode 0x00000007#32 = .reserved7 ∧ decode 0x00000009#32 = .reserved9 ∧
    decode 0x0000000F#32 = .reservedF

/-- Every word decodes to the row of the opcode map whose match its bits under the mask 0xF equal (R56, R58). -/
def Obligations.DecodeFollowsOpcodeMap : Prop :=
  ∀ v : Word,
    (v &&& 0xF#32 = 0x0#32 → decode v = .nop) ∧ (v &&& 0xF#32 = 0x1#32 → decode v = .encode) ∧
    (v &&& 0xF#32 = 0x2#32 → decode v = .decode) ∧ (v &&& 0xF#32 = 0x3#32 → decode v = .csum) ∧
    (v &&& 0xF#32 = 0x4#32 → decode v = .reserved4) ∧ (v &&& 0xF#32 = 0x5#32 → decode v = .reserved5) ∧
    (v &&& 0xF#32 = 0x6#32 → decode v = .reserved6) ∧ (v &&& 0xF#32 = 0x7#32 → decode v = .reserved7) ∧
    (v &&& 0xF#32 = 0x8#32 → decode v = .reserved8) ∧ (v &&& 0xF#32 = 0x9#32 → decode v = .reserved9) ∧
    (v &&& 0xF#32 = 0xA#32 → decode v = .reservedA) ∧ (v &&& 0xF#32 = 0xB#32 → decode v = .reservedB) ∧
    (v &&& 0xF#32 = 0xC#32 → decode v = .reservedC) ∧ (v &&& 0xF#32 = 0xD#32 → decode v = .reservedD) ∧
    (v &&& 0xF#32 = 0xE#32 → decode v = .reservedE) ∧ (v &&& 0xF#32 = 0xF#32 → decode v = .reservedF)

/-- Decode and encode agree both ways: the encoder's word of every well-formed command decodes to it, and the word the
encoder writes for what a word decodes to is that word with its ignored bits 31:4 cleared (R54, R56). -/
def Obligations.DecodeAndEncodeAgree : Prop :=
  (∀ i : Instr, i.wf = true → decode (encode i) = i) ∧ (∀ v : Word, encode (decode v) = v &&& 0x0000000F#32)

/-! ### One step -/

/-- A step whose next input is a Write32 to CMD runs the command its word decodes to, whole, and then answers `Ok`: the
step is exec of that command, with the input taken before it and the response written after it. The same of the word
`withFetchWord` places (R12, R17). -/
def Obligations.StepRunsDecodedCommand : Prop :=
  (∀ (s : State) (v : Word) (later : List HostInput), s.pending = .access (.write32 0x000#13 v) :: later →
    (decode v).wf = true →
    ∀ t, exec (decode v) { s with pending := later } = .next t → step s = .next { t with response := some .ok }) ∧
  (∀ (s t : State) (v : Word), exec (decode v) s = .next t →
    step (s.withFetchWord 32 v.toNat) = .next { t with response := some .ok })

/-- With no input of the host the block is idle and keeps all state (R108). -/
def Obligations.IdleBlockKeepsState : Prop :=
  ∀ s : State, s.pending = [] → step s = .next s

/-- The reset input puts every piece of state to its reset value; the host's later inputs are kept and no response is
outstanding, which is the model's choice (R109; log entry 4). -/
def Obligations.ResetInputRestoresReset : Prop :=
  ∀ (s : State) (later : List HostInput), s.pending = .reset :: later →
    step s = .next { State.reset with pending := later }

/-- The table of reset values (R34). -/
def Obligations.ResetValues : Prop :=
  readReg State.reset .cmd = 0x00000000#32 ∧ State.reset.status = 0x00000000#32 ∧
    State.reset.txHdr = 0x40000000#32 ∧ State.reset.rxHdr = 0x00000000#32 ∧ State.reset.csum = 0x00000000#32 ∧
    State.reset.rxSize = 0x00000000#32 ∧ State.reset.csLen = 0x00000000#32 ∧ State.reset.plen = 0x00000000#32 ∧
    ∀ i < 1446, State.reset.frame.read i = 0x00#8

/-- The three commands directly after reset: ENCODE builds the empty frame, DECODE fails BAD_SIZE, CSUM returns 0xFFFF
(R111). -/
def Obligations.CommandsDirectlyAfterReset : Prop :=
  (∃ t, exec .encode State.reset = .next t ∧
    frameBytes t 6 = [0x40#8, 0x00#8, 0x00#8, 0x00#8, 0xBF#8, 0xFF#8] ∧
    ∀ i, 6 ≤ i → i < 1446 → t.frame.read i = 0x00#8) ∧
  exec .decode State.reset = .next { State.reset with status := 0x00000211#32 } ∧
  exec .csum State.reset = .next { State.reset with status := 0x00000300#32, csum := 0x0000FFFF#32 }

/-- Every step answers a next state, whatever the state: every command terminates and the block never hangs (R116). -/
def Obligations.EveryStepCompletes : Prop :=
  (∀ (i : Instr) (s : State), ∃ t, exec i s = .next t) ∧ ∀ s : State, SafeStep s

/-! ### The host port -/

/-- A transaction the port does not accept is answered `BusError` and changes no register, no frame byte and no STATUS
field (R38, R40). -/
def Obligations.RefusedTransactionsChangeNothing : Prop :=
  ∀ (s : State) (t : Transaction) (later : List HostInput), s.pending = .access t :: later →
    portAccepts t = false → step s = .next { s with pending := later, response := some .busError }

/-- An accepted transaction is never answered `BusError` (R13, R39). -/
def Obligations.AcceptedTransactionsAnswerOk : Prop :=
  ∀ (s u : State) (t : Transaction) (later : List HostInput), s.pending = .access t :: later →
    portAccepts t = true → step s = .next u → u.response ≠ some .busError ∧ u.response ≠ none

/-- A Read32 answers the register's value (CMD reads 0), a Read8 the frame byte; neither changes state (R39, R44). -/
def Obligations.ReadsHaveNoSideEffect : Prop :=
  ∀ (s : State) (later : List HostInput),
    (∀ r, s.pending = .access (.read32 (regOffset r)) :: later →
      step s = .next { s with pending := later, response := some (.data32 (readReg s r)) }) ∧
    (∀ a : Addr, 0x1000 ≤ a.toNat → a.toNat ≤ 0x15A5 → s.pending = .access (.read8 a) :: later →
      step s = .next { s with pending := later, response := some (.data8 (s.frame.read (a.toNat - 0x1000))) })

/-- A host write to TX_HDR keeps only the writable bits and forces VER to 1; LEN is kept modulo 2048, SEQ and ACKN modulo
64 (R20). -/
def Obligations.TxHdrWriteKeepsWritableBits : Prop :=
  ∀ (s : State) (v : Word) (later : List HostInput), s.wf = true →
    s.pending = .access (.write32 0x008#13 v) :: later →
    step s = .next { s with
        pending := later, response := some .ok, txHdr := (v &&& 0x3FFF3F3F#32) ||| 0x40000000#32 } ∧
      hdrVer ((v &&& 0x3FFF3F3F#32) ||| 0x40000000#32) = 1#2 ∧
      ((v &&& 0x3FFF3F3F#32) ||| 0x40000000#32) &&& 0x0000C0C0#32 = 0#32 ∧
      hdrSyn ((v &&& 0x3FFF3F3F#32) ||| 0x40000000#32) = v.getLsbD 29 ∧
      hdrFin ((v &&& 0x3FFF3F3F#32) ||| 0x40000000#32) = v.getLsbD 28 ∧
      hdrAck ((v &&& 0x3FFF3F3F#32) ||| 0x40000000#32) = v.getLsbD 27 ∧
      (hdrLen ((v &&& 0x3FFF3F3F#32) ||| 0x40000000#32)).toNat = v.toNat / 65536 % 2048 ∧
      (txHdrSeq ((v &&& 0x3FFF3F3F#32) ||| 0x40000000#32)).toNat = v.toNat / 256 % 64 ∧
      (txHdrAckn ((v &&& 0x3FFF3F3F#32) ||| 0x40000000#32)).toNat = v.toNat % 64

/-- A host write to RX_SIZE or CS_LEN keeps bits 15:0; one to a read-only register is `Ok` and changes nothing (R16, R22,
R24, R39). -/
def Obligations.OtherRegisterWrites : Prop :=
  ∀ (s : State) (v : Word) (later : List HostInput), s.wf = true →
    (s.pending = .access (.write32 0x014#13 v) :: later →
      step s = .next { s with pending := later, response := some .ok, rxSize := v &&& 0x0000FFFF#32 }) ∧
    (s.pending = .access (.write32 0x018#13 v) :: later →
      step s = .next { s with pending := later, response := some .ok, csLen := v &&& 0x0000FFFF#32 }) ∧
    (∀ a ∈ [0x004#13, 0x00C#13, 0x010#13, 0x01C#13], s.pending = .access (.write32 a v) :: later →
      step s = .next { s with pending := later, response := some .ok })

/-- A Write8 in the frame window writes that frame byte and no other, and no register; the buffer keeps its canonical form
(R37, R39). -/
def Obligations.FrameWindowWriteSetsOneByte : Prop :=
  ∀ (s : State) (a : Addr) (v : Byte) (later : List HostInput), s.frame.wf = true →
    0x1000 ≤ a.toNat → a.toNat ≤ 0x15A5 → s.pending = .access (.write8 a v) :: later →
    ∃ m : Memory, step s = .next { s with pending := later, response := some .ok, frame := m } ∧ m.wf = true ∧
      m.read (a.toNat - 0x1000) = v ∧ ∀ i, i ≠ a.toNat - 0x1000 → m.read i = s.frame.read i

/-- What can change a frame byte in one step: the reset input; a Write8 to its address; an ENCODE, outside the payload
(R29, R47, R78, R109). -/
def Obligations.FrameChangesOnlyByWriteEncodeReset : Prop :=
  ∀ (s t : State) (i : Nat), s.frame.wf = true → step s = .next t → t.frame.read i ≠ s.frame.read i →
    ResetNext s ∨
    (i < 1446 ∧ ∃ a v later, s.pending = .access (.write8 a v) :: later ∧ a.toNat = 0x1000 + i) ∨
    (CommandNext s .encode ∧ s.txHdr.toNat / 65536 % 2048 ≤ 1440 ∧ i < 1446 ∧
      (i < 6 ∨ 6 + s.txHdr.toNat / 65536 % 2048 ≤ i))

/-- What can change a read-only register in one step: the reset input, or a command: STATUS any but NOP; RX_HDR and PLEN
only DECODE; CSUM only ENCODE, DECODE and CSUM (R25, R26, R27, R33). -/
def Obligations.ReadOnlyRegistersChangeOnlyByCommands : Prop :=
  ∀ s t : State, step s = .next t → ¬ ResetNext s →
    (t.status ≠ s.status → ∃ i, i ≠ .nop ∧ CommandNext s i) ∧
    (t.rxHdr ≠ s.rxHdr → CommandNext s .decode) ∧
    (t.plen ≠ s.plen → CommandNext s .decode) ∧
    (t.csum ≠ s.csum → CommandNext s .encode ∨ CommandNext s .decode ∨ CommandNext s .csum)

/-- No command writes a register the host writes, nor the host's side of the port (R22, R24, R57). -/
def Obligations.EngineNeverWritesHostRegisters : Prop :=
  ∀ (i : Instr) (s t : State), exec i s = .next t →
    t.txHdr = s.txHdr ∧ t.rxSize = s.rxSize ∧ t.csLen = s.csLen ∧ t.pending = s.pending ∧ t.response = s.response

/-! ### NOP, the reserved codes, STATUS and command errors -/

/-- NOP reads and writes no state; a Write32 to CMD of any word with `v[3:0] = 0` is NOP, and completes `Ok` (R91). -/
def Obligations.NopChangesNothing : Prop :=
  (∀ s : State, exec .nop s = .next s) ∧
  (∀ (s : State) (v : Word) (later : List HostInput), s.pending = .access (.write32 0x000#13 v) :: later →
    v &&& 0x0000000F#32 = 0x0#32 → step s = .next { s with pending := later, response := some .ok })

/-- Each reserved code fails with ILLEGAL_CMD, recording its OP, and changes nothing but STATUS (R92). -/
def Obligations.ReservedCodesFail : Prop :=
  ∀ s : State,
    exec .reserved4 s = .next { s with status := 0x00000451#32 } ∧
    exec .reserved5 s = .next { s with status := 0x00000551#32 } ∧
    exec .reserved6 s = .next { s with status := 0x00000651#32 } ∧
    exec .reserved7 s = .next { s with status := 0x00000751#32 } ∧
    exec .reserved8 s = .next { s with status := 0x00000851#32 } ∧
    exec .reserved9 s = .next { s with status := 0x00000951#32 } ∧
    exec .reservedA s = .next { s with status := 0x00000A51#32 } ∧
    exec .reservedB s = .next { s with status := 0x00000B51#32 } ∧
    exec .reservedC s = .next { s with status := 0x00000C51#32 } ∧
    exec .reservedD s = .next { s with status := 0x00000D51#32 } ∧
    exec .reservedE s = .next { s with status := 0x00000E51#32 } ∧
    exec .reservedF s = .next { s with status := 0x00000F51#32 }

/-- A Write32 to CMD of any word with `v[3:0] >= 4` completes `Ok`, writes STATUS = 0x51 | (op << 8) and changes nothing
else; bits 31:4 are ignored (R58, R92). -/
def Obligations.ReservedWordsFailOnThePort : Prop :=
  ∀ (s : State) (v : Word) (later : List HostInput), s.pending = .access (.write32 0x000#13 v) :: later →
    0x4#32 ≤ (v &&& 0x0000000F#32) →
    step s = .next { s with
      pending := later, response := some .ok, status := 0x00000051#32 ||| ((v &&& 0x0000000F#32) <<< 8) }

/-- STATUS after any command other than NOP: the reserved bits 0, LASTOP the command's OP; on success CAUSE = 0 and VALID
for DECODE alone; on failure VALID = 0 and a cause that R96 gives the command (R18, R33, R96). -/
def Obligations.StatusAfterACommand : Prop :=
  ∀ (i : Instr) (s t : State), i ≠ .nop → exec i s = .next t →
    t.status &&& 0xFFFFF00C#32 = 0#32 ∧ statusLastOp t.status = opcode i ∧
    ((statusErr t.status = false ∧ statusCause t.status = 0#4 ∧ (statusValid t.status = true ↔ i = .decode) ∧
        i ∈ [Instr.encode, .decode, .csum]) ∨
      (statusErr t.status = true ∧ statusValid t.status = false ∧
        (i = .decode ∧ statusCause t.status ∈ [1#4, 2#4, 3#4] ∨
          i ∈ [Instr.encode, .csum] ∧ statusCause t.status = 4#4 ∨
          i ∉ [Instr.encode, .decode, .csum] ∧ statusCause t.status = 5#4)))

/-- Errors are not sticky: every command other than NOP rewrites STATUS in full, and no command reads it, so its outcome is
the same whatever STATUS held (R33, R100). -/
def Obligations.NoCommandReadsStatus : Prop :=
  ∀ (i : Instr) (s : State) (x : Word), i ≠ .nop → exec i { s with status := x } = exec i s

/-- After a command error STATUS is `(op << 8) | (c << 4) | 1`; a command other than DECODE changed nothing else; a failed
DECODE also cleared RX_HDR and PLEN, and wrote CSUM only where the cause is BAD_CSUM or BAD_VERSION (R97). -/
def Obligations.CommandErrorsArePrecise : Prop :=
  ∀ (i : Instr) (s t : State), i ≠ .nop → exec i s = .next t → statusErr t.status = true →
    t.status = ((opcode i).setWidth 32 <<< 8) ||| ((statusCause t.status).setWidth 32 <<< 4) ||| 0x1#32 ∧
    (i ≠ .decode → t = { s with status := t.status }) ∧
    (i = .decode → t = { s with status := t.status, rxHdr := 0x00000000#32, plen := 0x00000000#32, csum := t.csum } ∧
      (statusCause t.status = 1#4 → t.csum = s.csum))

/-! ### The checksum function -/

/-- Two folds always leave a 16-bit value: the bounds of the sum and of each fold (R71). -/
def Obligations.TwoFoldsConverge : Prop :=
  (∀ b : List Byte, b.length ≤ 1446 → (wordsOf b).length ≤ 723 ∧ wordSum b ≤ 0x2D2FD2D) ∧
  (∀ b : List Byte, b.length ≤ 131074 → wordSum b < 2 ^ 32) ∧
  (∀ x : Nat, x < 2 ^ 32 → fold16 x ≤ 0x1FFFE ∧
    (0x10000 ≤ fold16 x → fold16 x >>> 16 = 1 ∧ fold16 x &&& 0xFFFF ≤ 0xFFFE) ∧ fold16 (fold16 x) ≤ 0xFFFF)

/-- The checksum is 0xFFFF exactly of a zero sum, 0 exactly of a positive sum divisible by 65535, and otherwise determined
by the sum modulo 65535 (R72 items 1 and 2). -/
def Obligations.ChecksumResidue : Prop :=
  ∀ b : List Byte, b.length ≤ 131074 →
    (csum16 b = 0xFFFF#16 ↔ wordSum b = 0) ∧
    (csum16 b = 0x0000#16 ↔ 0 < wordSum b ∧ wordSum b % 65535 = 0) ∧
    (0 < wordSum b → 1 ≤ 0xFFFF - (csum16 b).toNat ∧ (0xFFFF - (csum16 b).toNat) % 65535 = wordSum b % 65535)

/-- An odd-length sequence is summed as if one zero byte followed it, the low byte of its last word (R69, R70). -/
def Obligations.OddLengthPadsOneZeroByte : Prop :=
  ∀ b : List Byte, b.length % 2 = 1 → wordSum (b ++ [0x00#8]) = wordSum b ∧ csum16 (b ++ [0x00#8]) = csum16 b

/-- Permuting whole 16-bit words leaves the checksum unchanged (R72 item 3). -/
def Obligations.WordOrderDoesNotMatter : Prop :=
  ∀ ws ws' : List Half, ws.Perm ws' → csum16 (ws.flatMap wordBytes) = csum16 (ws'.flatMap wordBytes)

/-- The checksum is the complement of the incremental one's-complement sum with end-around carry (R72 item 4). -/
def Obligations.EndAroundCarryAgrees : Prop :=
  ∀ b : List Byte, b.length ≤ 131074 →
    csum16 b = ~~~ BitVec.ofNat 16 ((wordsOf b).foldl endAroundAdd 0)

/-- Replacing one word 0x0000 by 0xFFFF leaves the checksum unchanged where another word is not zero (R72 item 5). -/
def Obligations.ZeroAndAllOnesWordsAlike : Prop :=
  ∀ pre post : List Half, pre.length + post.length < 65537 → (∃ w ∈ pre ++ post, w ≠ 0x0000#16) →
    csum16 ((pre ++ 0x0000#16 :: post).flatMap wordBytes) = csum16 ((pre ++ 0xFFFF#16 :: post).flatMap wordBytes)

/-- Generation and verification agree: a sequence whose bytes 4-5 hold, big-endian, the checksum computed with bytes 4-5
zero has checksum exactly 0 (R74). -/
def Obligations.EmbeddedChecksumVerifies : Prop :=
  ∀ b : List Byte, 6 ≤ b.length → b.length ≤ 131074 →
    csum16 ((b.set 4 ((csum16 ((b.set 4 0x00#8).set 5 0x00#8)).extractLsb' 8 8)).set 5
      ((csum16 ((b.set 4 0x00#8).set 5 0x00#8)).extractLsb' 0 8)) = 0x0000#16

/-- Sums that are both positive and congruent modulo 65535 give the same checksum, so an error that keeps the residue is
not detected (R72 item 1, R75 items 2 and 3). -/
def Obligations.CongruentSumsAreNotDistinguished : Prop :=
  ∀ b b' : List Byte, b.length ≤ 131074 → b'.length ≤ 131074 → 0 < wordSum b → 0 < wordSum b' →
    wordSum b % 65535 = wordSum b' % 65535 → csum16 b = csum16 b'

/-! ### CSUM, ENCODE, DECODE -/

/-- CSUM with N at most 1446 writes the checksum of `FRAME[0 .. N-1]` to CSUM and 0x300 to STATUS; with a larger N it fails
LEN_RANGE; nothing else changes, the frame buffer among it (R73). -/
def Obligations.CsumCommand : Prop :=
  decode 0x00000003#32 = .csum ∧ ∀ s : State,
    (s.csLen.toNat % 65536 ≤ 1446 →
      exec .csum s = .next { s with
        csum := (csum16 (frameBytes s (s.csLen.toNat % 65536))).setWidth 32, status := 0x00000300#32 }) ∧
    (1446 < s.csLen.toNat % 65536 → exec .csum s = .next { s with status := 0x00000341#32 })

/-- ENCODE with LEN at most 1440 builds the frame: bytes 0-3 from TX_HDR, bytes 4-5 the checksum of the frame with those
bytes zero, the payload unchanged, the padding zero; CSUM holds the checksum, STATUS is 0x100, nothing else changes.
With a larger LEN it fails LEN_RANGE and writes nothing but STATUS (R77, R78, R82). -/
def Obligations.EncodeBuildsFrame : Prop :=
  decode 0x00000001#32 = .encode ∧ ∀ s : State, s.frame.wf = true →
    (s.txHdr.toNat / 65536 % 2048 ≤ 1440 →
      ∃ (m : Memory) (c : Half),
        exec .encode s = .next { s with frame := m, csum := c.setWidth 32, status := 0x00000100#32 } ∧
        c = csum16 ((List.range 1446).map fun i => if i = 4 ∨ i = 5 then 0x00#8 else m.read i) ∧
        (m.read 0).toNat = s.txHdr.toNat / 2 ^ 24 ∧ (m.read 1).toNat = s.txHdr.toNat / 2 ^ 16 % 256 ∧
        (m.read 2).toNat = s.txHdr.toNat / 2 ^ 8 % 256 ∧ (m.read 3).toNat = s.txHdr.toNat % 256 ∧
        (m.read 4).toNat = c.toNat / 256 ∧ (m.read 5).toNat = c.toNat % 256 ∧
        (∀ i, 6 ≤ i → i < 6 + s.txHdr.toNat / 65536 % 2048 → m.read i = s.frame.read i) ∧
        (∀ i, 6 + s.txHdr.toNat / 65536 % 2048 ≤ i → i < 1446 → m.read i = 0x00#8) ∧
        (∀ i, 1446 ≤ i → m.read i = s.frame.read i) ∧ m.wf = true) ∧
    (1440 < s.txHdr.toNat / 65536 % 2048 → exec .encode s = .next { s with status := 0x00000141#32 })

/-- ENCODE reads only TX_HDR and the payload bytes: two states that agree on those give the same frame, the same checksum
and the same STATUS, whatever the header bytes and the padding held before (R57, R78). -/
def Obligations.EncodeReadsOnlyHeaderAndPayload : Prop :=
  ∀ s s' t t' : State, s.frame.wf = true → s'.frame.wf = true → s.txHdr = s'.txHdr →
    s.txHdr.toNat / 65536 % 2048 ≤ 1440 →
    (∀ i, 6 ≤ i → i < 6 + s.txHdr.toNat / 65536 % 2048 → s.frame.read i = s'.frame.read i) →
    exec .encode s = .next t → exec .encode s' = .next t' →
    frameBytes t 1446 = frameBytes t' 1446 ∧ t.csum = t'.csum ∧ t.status = t'.status

/-- Every frame ENCODE produces is valid and decodes to what was encoded: VERSION 1, sequence bytes at most 63, LENGTH =
LEN, zero padding, checksum 0; DECODE of it with RX_SIZE = 1446 succeeds with RX_HDR = TX_HDR, PLEN = LEN and the
same payload bytes (R79). -/
def Obligations.EncodedFramesDecodeToWhatWasEncoded : Prop :=
  ∀ s : State, s.wf = true → s.txHdr.toNat / 65536 % 2048 ≤ 1440 →
    ∃ t : State, exec .encode s = .next t ∧
      (frameBytes t 1446).length = 1446 ∧
      (t.frame.read 0).toNat / 64 = 1 ∧ (t.frame.read 2).toNat ≤ 63 ∧ (t.frame.read 3).toNat ≤ 63 ∧
      (t.frame.read 0).toNat % 8 * 256 + (t.frame.read 1).toNat = s.txHdr.toNat / 65536 % 2048 ∧
      (∀ i, 6 + s.txHdr.toNat / 65536 % 2048 ≤ i → i < 1446 → t.frame.read i = 0x00#8) ∧
      csum16 (frameBytes t 1446) = 0x0000#16 ∧
      ∃ u : State, exec .decode { t with rxSize := 0x000005A6#32 } = .next u ∧
        u = { t with
          rxSize := 0x000005A6#32, csum := 0x00000000#32, status := 0x00000202#32, rxHdr := s.txHdr,
          plen := BitVec.ofNat 32 (s.txHdr.toNat / 65536 % 2048) } ∧
        deliveredPayload hw u =
          (List.range (s.txHdr.toNat / 65536 % 2048)).map fun i => s.frame.read (6 + i)

/-- DECODE of a valid frame succeeds: RX_HDR receives the first four bytes, PLEN the LENGTH field clamped to 1440 (so that
many payload bytes from byte 6 on are delivered), CSUM the verification result 0, STATUS 0x202; nothing else
changes, the frame buffer among it (R87, R88). -/
def Obligations.DecodeOfAValidFrame : Prop :=
  ∀ s : State, s.rxSize.toNat % 65536 = 1446 → csum16 (frameBytes s 1446) = 0x0000#16 →
    (s.frame.read 0).toNat / 64 = 1 →
    ∃ t : State, exec .decode s = .next t ∧
      t = { s with
        rxHdr := s.frame.read 0 ++ s.frame.read 1 ++ s.frame.read 2 ++ s.frame.read 3
        plen := BitVec.ofNat 32 (min ((s.frame.read 0).toNat % 8 * 256 + (s.frame.read 1).toNat) 1440)
        csum := 0x00000000#32
        status := 0x00000202#32 } ∧
      deliveredPayload hw t =
        (List.range (min ((s.frame.read 0).toNat % 8 * 256 + (s.frame.read 1).toNat) 1440)).map
          fun i => s.frame.read (6 + i)

/-- DECODE reports the first check that fails, size before checksum before version, and clears RX_HDR and PLEN: BAD_SIZE
leaves CSUM alone, BAD_CSUM leaves the non-zero verification result there, BAD_VERSION a zero one; where every check
passes there is no error and CSUM holds the result 0 (R84, R85, R86). -/
def Obligations.DecodeReportsTheFirstFailure : Prop :=
  ∀ s : State,
    (s.rxSize.toNat % 65536 ≠ 1446 →
      exec .decode s = .next { s with status := 0x00000211#32, rxHdr := 0x00000000#32, plen := 0x00000000#32 }) ∧
    (s.rxSize.toNat % 65536 = 1446 → csum16 (frameBytes s 1446) ≠ 0x0000#16 →
      exec .decode s = .next { s with
        status := 0x00000221#32, rxHdr := 0x00000000#32, plen := 0x00000000#32
        csum := (csum16 (frameBytes s 1446)).setWidth 32 }) ∧
    (s.rxSize.toNat % 65536 = 1446 → csum16 (frameBytes s 1446) = 0x0000#16 → (s.frame.read 0).toNat / 64 ≠ 1 →
      exec .decode s = .next { s with
        status := 0x00000231#32, rxHdr := 0x00000000#32, plen := 0x00000000#32, csum := 0x00000000#32 }) ∧
    (s.rxSize.toNat % 65536 = 1446 → csum16 (frameBytes s 1446) = 0x0000#16 → (s.frame.read 0).toNat / 64 = 1 →
      ∃ t, exec .decode s = .next t ∧ statusErr t.status = false ∧ t.csum = 0x00000000#32)

/-- DECODE reports no error exactly when RX_SIZE.SIZE is 1446, the checksum of the 1446 bytes in the frame buffer is 0 and
FRAME[0][7:6] is 1: nothing else is checked (derived from R66, R83, R84). It speaks of RX_SIZE and the buffer; that they
are a received datagram and its true length is the host's duty, a premise outside the model (R113, log entry 15). -/
def Obligations.DecodeAcceptsExactlyValidFrames : Prop :=
  ∀ s t : State, exec .decode s = .next t →
    (statusErr t.status = false ↔
      s.rxSize.toNat % 65536 = 1446 ∧ csum16 (frameBytes s 1446) = 0x0000#16 ∧ (s.frame.read 0).toNat / 64 = 1)

/-- DECODE never writes the frame buffer, in success or failure; nor do CSUM, NOP and the reserved codes (R57, R90). -/
def Obligations.OnlyEncodeWritesTheFrame : Prop :=
  ∀ (i : Instr) (s t : State), i ≠ .encode → exec i s = .next t → t.frame = s.frame

/-- Register image and frame agree byte for byte: TX_HDR after a successful ENCODE and RX_HDR after a successful DECODE are
the first four frame bytes; a later Write8 changes neither (R42). -/
def Obligations.RegisterImageMatchesFrame : Prop :=
  (∀ s t : State, s.frame.wf = true → exec .encode s = .next t → statusErr t.status = false →
    t.txHdr = t.frame.read 0 ++ t.frame.read 1 ++ t.frame.read 2 ++ t.frame.read 3) ∧
  (∀ s t : State, exec .decode s = .next t → statusErr t.status = false →
    t.frame.read 0 = t.rxHdr.extractLsb' 24 8 ∧ t.frame.read 1 = t.rxHdr.extractLsb' 16 8 ∧
      t.frame.read 2 = t.rxHdr.extractLsb' 8 8 ∧ t.frame.read 3 = t.rxHdr.extractLsb' 0 8) ∧
  (∀ (s t : State) (a : Addr) (v : Byte) (later : List HostInput),
    s.pending = .access (.write8 a v) :: later → step s = .next t →
    t.rxHdr = s.rxHdr ∧ t.txHdr = s.txHdr)

/-- The header bytes ENCODE writes are TX_HDR's fields assembled in the order VERSION, SYN, FIN, ACK, LEN, zext_8 of SEQ,
zext_8 of ACKN, for every TX_HDR whose reserved bits read as they must (R64). -/
def Obligations.HeaderIsAssembledFromFields : Prop :=
  ∀ s : State, s.wf = true → s.txHdr.toNat / 65536 % 2048 ≤ 1440 →
    ∃ t : State, exec .encode s = .next t ∧
      t.frame.read 0 ++ t.frame.read 1 =
        assembleW0 1#2 (hdrSyn s.txHdr) (hdrFin s.txHdr) (hdrAck s.txHdr) (hdrLen s.txHdr) ∧
      t.frame.read 2 = (txHdrSeq s.txHdr).setWidth 8 ∧ t.frame.read 3 = (txHdrAckn s.txHdr).setWidth 8 ∧
      t.frame.read 0 ++ t.frame.read 1 ++ t.frame.read 2 ++ t.frame.read 3 = s.txHdr

/-- Every single-bit error is detected: a frame that verifies, with any one bit of any byte flipped (checksum field and
padding included), makes DECODE fail BAD_CSUM with a non-zero verification result (R75 item 1, R83, R85). -/
def Obligations.SingleBitErrorsAreDetected : Prop :=
  ∀ (s : State) (i j : Nat), s.frame.wf = true → s.rxSize.toNat % 65536 = 1446 →
    csum16 (frameBytes s 1446) = 0x0000#16 → i < 1446 → j < 8 →
    ∃ v : Half, v ≠ 0x0000#16 ∧
      exec .decode { s with frame := s.frame.write i (flipBit (s.frame.read i) j) } =
        .next { s with
          frame := s.frame.write i (flipBit (s.frame.read i) j), csum := v.setWidth 32, status := 0x00000221#32
          rxHdr := 0x00000000#32, plen := 0x00000000#32 }

/-! ### The invariant -/

/-- The state after reset satisfies the invariant: canonical memory inside the frame, a legal STATUS, reserved bits as they
read (R34); and this hardware's configuration satisfies R7. Of that configuration the accumulator width of exactly 32 bits
is the model's choice (log entry 17). -/
def Obligations.ResetStateIsWellFormed : Prop :=
  State.reset.wf = true ∧ hw.wf = true

/-- Every step keeps the invariant: the frame buffer canonical and inside its 1446 bytes, STATUS one of the words R33 and
R97 allow and consistent with RX_HDR, PLEN and CSUM, TX_HDR.VER = 1, every reserved bit 0, PLEN the clamped
RX_HDR.LEN (R16, R18, R19, R28, R99). -/
def Obligations.EveryStepKeepsStateWellFormed : Prop :=
  ∀ s t : State, s.wf = true → step s = .next t → t.wf = true
end

