-- ==== Sys2Proof/Laws/Memory.lean ====
section
/-! SUPPORT. The laws of the frame buffer: what a read gives after each operation, and that each operation keeps the
canonical form and the address bound. -/

namespace Sys2Proof.Machine

@[simp] theorem Memory.read_nil (a : Nat) : Memory.read [] a = 0#8 := rfl

theorem Memory.read_cons (k : Nat) (x : Byte) (m : Memory) (a : Nat) :
    Memory.read ((k, x) :: m) a = if a = k then x else Memory.read m a := rfl

/-- An address that is not listed reads as the unlisted byte. -/
theorem Memory.read_of_forall_ne (m : Memory) (a : Nat) (h : ∀ cell ∈ m, cell.1 ≠ a) :
    m.read a = Memory.unlisted := by
  induction m with
  | nil => rfl
  | cons cell m ih =>
    obtain ⟨k, x⟩ := cell
    rw [Memory.read_cons, if_neg (fun e => h (k, x) (by simp) e.symm)]
    exact ih fun c hc => h c (List.mem_cons_of_mem _ hc)

/-- The canonical form of a list with a first cell: that cell is listed rightly, all later addresses are above it. -/
theorem Memory.wf_cons (k : Nat) (x : Byte) (m : Memory) :
    Memory.wf ((k, x) :: m) = true ↔ x ≠ Memory.unlisted ∧ (∀ cell ∈ m, k < cell.1) ∧ Memory.wf m = true := by
  simp [Memory.wf, and_assoc]

theorem Memory.within_iff (n : Nat) (m : Memory) : m.within n = true ↔ ∀ cell ∈ m, cell.1 < n := by
  simp [Memory.within]

/-- Where the cells of a written memory come from. -/
theorem Memory.mem_write {m : Memory} {a : Nat} {b : Byte} {cell : Host.Cell} (h : cell ∈ m.write a b) :
    cell = (a, b) ∨ cell ∈ m := by
  induction m with
  | nil => simp only [Memory.write] at h; split at h <;> simp_all
  | cons c m ih =>
    obtain ⟨k, x⟩ := c
    simp only [Memory.write] at h
    split at h
    · split at h <;> simp_all
    · split at h
      · rename_i hak
        subst hak
        split at h
        · exact .inr (List.mem_cons_of_mem _ h)
        · rcases List.mem_cons.1 h with h | h
          · exact .inl h
          · exact .inr (List.mem_cons_of_mem _ h)
      · rcases List.mem_cons.1 h with rfl | h
        · simp
        · rcases ih h with h | h <;> simp [h]

/-- Read after write: the byte written at its own address, and at every other address what was there (R10). -/
theorem Memory.read_write {m : Memory} (hm : m.wf = true) (a i : Nat) (b : Byte) :
    (m.write a b).read i = if i = a then b else m.read i := by
  induction m with
  | nil => simp only [Memory.write]; split <;> simp_all [Memory.read, Memory.unlisted]
  | cons c m ih =>
    obtain ⟨k, x⟩ := c
    obtain ⟨_, hk, hm'⟩ := (Memory.wf_cons k x m).1 hm
    have hout : ∀ j, j ≤ k → Memory.read m j = Memory.unlisted := fun j hj =>
      Memory.read_of_forall_ne m j fun c hc => by have := hk c hc; omega
    simp only [Memory.write]
    split
    · split
      · rename_i hb
        rw [hb]
        by_cases hi : i = a
        · rw [if_pos hi, Memory.read_cons, if_neg (by omega), hout i (by omega)]
        · rw [if_neg hi]
      · rw [Memory.read_cons]
    · split
      · rename_i hak
        subst hak
        split
        · rename_i hb
          by_cases hi : i = a
          · rw [if_pos hi, hb, hi, hout a (Nat.le_refl a)]
          · rw [if_neg hi, Memory.read_cons, if_neg hi]
        · simp only [Memory.read_cons]
          split <;> rfl
      · rw [Memory.read_cons, Memory.read_cons, ih hm']
        by_cases hi : i = k
        · rw [if_pos hi, if_neg (by omega), if_pos hi]
        · rw [if_neg hi, if_neg hi]

/-- A write keeps the canonical form. -/
theorem Memory.write_wf {m : Memory} (hm : m.wf = true) (a : Nat) (b : Byte) : (m.write a b).wf = true := by
  induction m with
  | nil => simp only [Memory.write]; split <;> simp_all [Memory.wf]
  | cons c m ih =>
    obtain ⟨k, x⟩ := c
    obtain ⟨hx, hk, hm'⟩ := (Memory.wf_cons k x m).1 hm
    simp only [Memory.write]
    split
    · split
      · exact hm
      · rename_i hak hb
        refine (Memory.wf_cons _ _ _).2 ⟨hb, fun c hc => ?_, hm⟩
        rcases List.mem_cons.1 hc with rfl | hc
        · exact hak
        · have := hk c hc; omega
    · split
      · split
        · exact hm'
        · rename_i hak hb
          exact (Memory.wf_cons _ _ _).2 ⟨hb, fun c hc => by have := hk c hc; omega, hm'⟩
      · refine (Memory.wf_cons _ _ _).2 ⟨hx, fun c hc => ?_, ih hm'⟩
        rcases Memory.mem_write hc with rfl | hc
        · show k < a; omega
        · exact hk c hc

/-- A write below the bound keeps every listed address below it. -/
theorem Memory.write_within {n : Nat} {m : Memory} (hm : m.within n = true) {a : Nat} (ha : a < n) (b : Byte) :
    (m.write a b).within n = true := by
  rw [Memory.within_iff] at hm ⊢
  intro c hc
  rcases Memory.mem_write hc with rfl | hc
  · exact ha
  · exact hm c hc

/-- Filtering keeps the canonical form. -/
theorem Memory.filter_wf {m : Memory} (hm : m.wf = true) (p : Host.Cell → Bool) :
    Memory.wf (m.filter p) = true := by
  induction m with
  | nil => rfl
  | cons c m ih =>
    obtain ⟨k, x⟩ := c
    obtain ⟨hx, hk, hm'⟩ := (Memory.wf_cons k x m).1 hm
    rw [List.filter_cons]
    split
    · exact (Memory.wf_cons _ _ _).2 ⟨hx, fun c hc => hk c (List.mem_of_mem_filter hc), ih hm'⟩
    · exact ih hm'

/-- Zeroing a range keeps the canonical form. -/
theorem Memory.zero_wf {m : Memory} (hm : m.wf = true) (lo hi : Nat) : (m.zero lo hi).wf = true :=
  Memory.filter_wf hm _

/-- Zeroing a range keeps the address bound. -/
theorem Memory.zero_within {n : Nat} {m : Memory} (hm : m.within n = true) (lo hi : Nat) :
    (m.zero lo hi).within n = true := by
  rw [Memory.within_iff] at hm ⊢
  exact fun c hc => hm c (List.mem_of_mem_filter hc)

/-- After zeroing `lo .. hi-1` those bytes read 0 and every other byte reads as before (R77). -/
theorem Memory.read_zero (m : Memory) (lo hi i : Nat) :
    (m.zero lo hi).read i = if lo ≤ i ∧ i < hi then 0#8 else m.read i := by
  induction m with
  | nil => simp [Memory.zero]
  | cons c m ih =>
    obtain ⟨k, x⟩ := c
    have ih' : Memory.read (List.filter (fun cell => decide (cell.1 < lo) || decide (hi ≤ cell.1)) m) i =
        if lo ≤ i ∧ i < hi then 0#8 else Memory.read m i := ih
    simp only [Memory.zero, List.filter_cons, Bool.or_eq_true, decide_eq_true_eq]
    split
    · rw [Memory.read_cons, Memory.read_cons, ih']
      by_cases hik : i = k
      · rw [if_pos hik, if_pos hik, if_neg (by omega)]
      · simp only [if_neg hik]
    · rw [ih', Memory.read_cons]
      by_cases hik : i = k
      · rw [if_pos (by omega), if_pos (by omega)]
      · simp only [if_neg hik]

/-- `MemWrite(a, 2, v)` byte by byte. -/
theorem Memory.read_write16 {m : Memory} (hm : m.wf = true) (a i : Nat) (v : Half) :
    (m.write16 a v).read i =
      if i = a then v.extractLsb' 8 8 else if i = a + 1 then v.extractLsb' 0 8 else m.read i := by
  rw [Memory.write16, Memory.read_write (Memory.write_wf hm _ _), Memory.read_write hm]
  split <;> split <;> first | rfl | omega

/-- `MemWrite(a, 4, v)` byte by byte. -/
theorem Memory.read_write32 {m : Memory} (hm : m.wf = true) (a i : Nat) (v : Word) :
    (m.write32 a v).read i =
      if i = a then v.extractLsb' 24 8 else if i = a + 1 then v.extractLsb' 16 8
      else if i = a + 2 then v.extractLsb' 8 8 else if i = a + 3 then v.extractLsb' 0 8 else m.read i := by
  have h1 := Memory.write_wf hm a (v.extractLsb' 24 8)
  have h2 := Memory.write_wf h1 (a + 1) (v.extractLsb' 16 8)
  have h3 := Memory.write_wf h2 (a + 2) (v.extractLsb' 8 8)
  rw [Memory.write32, Memory.read_write h3, Memory.read_write h2, Memory.read_write h1, Memory.read_write hm]
  split_ifs <;> first | rfl | omega

theorem Memory.write16_wf {m : Memory} (hm : m.wf = true) (a : Nat) (v : Half) : (m.write16 a v).wf = true :=
  Memory.write_wf (Memory.write_wf hm _ _) _ _

theorem Memory.write32_wf {m : Memory} (hm : m.wf = true) (a : Nat) (v : Word) : (m.write32 a v).wf = true :=
  Memory.write_wf (Memory.write_wf (Memory.write_wf (Memory.write_wf hm _ _) _ _) _ _) _ _

theorem Memory.write16_within {n : Nat} {m : Memory} (hm : m.within n = true) {a : Nat} (ha : a + 1 < n) (v : Half) :
    (m.write16 a v).within n = true :=
  Memory.write_within (Memory.write_within hm (by omega) _) ha _

theorem Memory.write32_within {n : Nat} {m : Memory} (hm : m.within n = true) {a : Nat} (ha : a + 3 < n) (v : Word) :
    (m.write32 a v).within n = true :=
  Memory.write_within (Memory.write_within (Memory.write_within (Memory.write_within hm (by omega) _) (by omega) _)
    (by omega) _) ha _

@[simp] theorem Memory.bytes_length (m : Memory) (a n : Nat) : (m.bytes a n).length = n := by
  induction n generalizing a with
  | zero => rfl
  | succ n ih => simp [Memory.bytes, ih]

/-- A byte sequence of the frame, one read for each index (R10). -/
theorem Memory.bytes_eq_map (m : Memory) (a n : Nat) :
    m.bytes a n = (List.range n).map fun i => m.read (a + i) := by
  induction n generalizing a with
  | zero => rfl
  | succ n ih =>
    rw [Memory.bytes, ih, List.range_succ_eq_map, List.map_cons, List.map_map]
    simp [Function.comp_def, Nat.add_assoc, Nat.add_comm 1]

/-- Two memories that read the same in a range have the same byte sequence there. -/
theorem Memory.bytes_congr {m m' : Memory} {a n : Nat} (h : ∀ i, i < n → m.read (a + i) = m'.read (a + i)) :
    m.bytes a n = m'.bytes a n := by
  rw [Memory.bytes_eq_map, Memory.bytes_eq_map]
  exact List.map_congr_left fun i hi => h i (List.mem_range.1 hi)

end Sys2Proof.Machine
end

