-- ==== Sys2Proof/Laws/Checksum.lean ====
section
/-! SUPPORT. The small laws of the checksum's parts. -/

namespace Sys2Proof.Machine

@[simp] theorem wordSum_nil : wordSum [] = 0 := rfl
@[simp] theorem wordSum_singleton (x : Byte) : wordSum [x] = x.toNat * 256 := rfl
@[simp] theorem wordSum_cons_cons (x y : Byte) (b : List Byte) :
    wordSum (x :: y :: b) = x.toNat * 256 + y.toNat + wordSum b := rfl

/-- A fold as quotient and remainder by 65536 (R69). -/
theorem fold16_eq (f : Nat) : fold16 f = f % 65536 + f / 65536 := by
  unfold fold16
  rw [show (0xFFFF : Nat) = 2 ^ 16 - 1 from rfl, Nat.and_two_pow_sub_one_eq_mod, Nat.shiftRight_eq_div_pow]

/-- A fold keeps the value modulo 65535 (R72 item 1). -/
theorem fold16_mod (f : Nat) : fold16 f % 65535 = f % 65535 := by rw [fold16_eq]; omega

/-- A fold is zero only of zero (R72 item 1). -/
theorem fold16_eq_zero (f : Nat) : fold16 f = 0 ↔ f = 0 := by rw [fold16_eq]; omega

end Sys2Proof.Machine
end

