-- ==== Sys2Proof/Laws/State.lean ====
section
/-! SUPPORT. One lemma for each field of each named update of State, each true by rfl, and the laws of the registers. -/

namespace Sys2Proof.Machine

section Respond
variable (s : State) (r : Response)
@[simp] theorem respond_status : (s.respond r).status = s.status := rfl
@[simp] theorem respond_txHdr : (s.respond r).txHdr = s.txHdr := rfl
@[simp] theorem respond_rxHdr : (s.respond r).rxHdr = s.rxHdr := rfl
@[simp] theorem respond_csum : (s.respond r).csum = s.csum := rfl
@[simp] theorem respond_rxSize : (s.respond r).rxSize = s.rxSize := rfl
@[simp] theorem respond_csLen : (s.respond r).csLen = s.csLen := rfl
@[simp] theorem respond_plen : (s.respond r).plen = s.plen := rfl
@[simp] theorem respond_frame : (s.respond r).frame = s.frame := rfl
@[simp] theorem respond_pending : (s.respond r).pending = s.pending := rfl
@[simp] theorem respond_response : (s.respond r).response = some r := rfl
end Respond

section FetchWord
variable (s : State) (n w : Nat)
@[simp] theorem withFetchWord_status : (s.withFetchWord n w).status = s.status := rfl
@[simp] theorem withFetchWord_txHdr : (s.withFetchWord n w).txHdr = s.txHdr := rfl
@[simp] theorem withFetchWord_rxHdr : (s.withFetchWord n w).rxHdr = s.rxHdr := rfl
@[simp] theorem withFetchWord_csum : (s.withFetchWord n w).csum = s.csum := rfl
@[simp] theorem withFetchWord_rxSize : (s.withFetchWord n w).rxSize = s.rxSize := rfl
@[simp] theorem withFetchWord_csLen : (s.withFetchWord n w).csLen = s.csLen := rfl
@[simp] theorem withFetchWord_plen : (s.withFetchWord n w).plen = s.plen := rfl
@[simp] theorem withFetchWord_frame : (s.withFetchWord n w).frame = s.frame := rfl
@[simp] theorem withFetchWord_response : (s.withFetchWord n w).response = s.response := rfl
@[simp] theorem withFetchWord_pending :
    (s.withFetchWord n w).pending = commandInput n w :: s.pending := rfl
end FetchWord

section ResetInput
variable (later : List HostInput)
@[simp] theorem resetInput_status : (resetInput later).status = 0#32 := rfl
@[simp] theorem resetInput_txHdr : (resetInput later).txHdr = 0x40000000#32 := rfl
@[simp] theorem resetInput_rxHdr : (resetInput later).rxHdr = 0#32 := rfl
@[simp] theorem resetInput_csum : (resetInput later).csum = 0#32 := rfl
@[simp] theorem resetInput_rxSize : (resetInput later).rxSize = 0#32 := rfl
@[simp] theorem resetInput_csLen : (resetInput later).csLen = 0#32 := rfl
@[simp] theorem resetInput_plen : (resetInput later).plen = 0#32 := rfl
@[simp] theorem resetInput_frame : (resetInput later).frame = [] := rfl
@[simp] theorem resetInput_pending : (resetInput later).pending = later := rfl
@[simp] theorem resetInput_response : (resetInput later).response = none := rfl
end ResetInput

section Registers
variable (s : State) (r : Reg) (v : Word)

/-- A register other than CMD reads back what was set. -/
theorem readReg_setReg_self (h : r ≠ .cmd) : readReg (setReg s r v) r = v := by
  cases r <;> first | exact absurd rfl h | rfl

/-- Setting one register leaves every other as it was. -/
theorem readReg_setReg_of_ne {q : Reg} (h : q ≠ r) : readReg (setReg s r v) q = readReg s q := by
  cases r <;> cases q <;> first | exact absurd rfl h | rfl

@[simp] theorem setReg_frame : (setReg s r v).frame = s.frame := by cases r <;> rfl
@[simp] theorem setReg_pending : (setReg s r v).pending = s.pending := by cases r <;> rfl
@[simp] theorem setReg_response : (setReg s r v).response = s.response := by cases r <;> rfl
@[simp] theorem readReg_respond (q : Response) : readReg (s.respond q) r = readReg s r := by cases r <;> rfl
@[simp] theorem setReg_cmd : setReg s .cmd v = s := rfl

/-- Setting a register to what it holds changes nothing. -/
theorem setReg_readReg : setReg s r (readReg s r) = s := by cases r <;> rfl

/-- The write masks of R39's table at this hardware's parameters. -/
@[simp] theorem writeMask_hw :
    writeMask hw r = match r with
      | .txHdr => 0x3FFF3F3F#32
      | .rxSize | .csLen => 0x0000FFFF#32
      | _ => 0#32 := by cases r <;> rfl

/-- The forced-one bits of R39's table at this hardware's parameters. -/
@[simp] theorem writeSet_hw :
    writeSet hw r = match r with
      | .txHdr => 0x40000000#32
      | _ => 0#32 := by cases r <;> rfl

/-- A host write to a register whose write mask and forced bits are zero changes nothing. -/
theorem hostWriteReg_readOnly (c : Config) (hm : writeMask c r = 0#32) (hs : writeSet c r = 0#32) :
    hostWriteReg c s r v = s := by
  have h : (readReg s r &&& ~~~ (0#32)) ||| (v &&& 0#32) ||| 0#32 = readReg s r := by
    rw [BitVec.and_zero, BitVec.or_zero, BitVec.or_zero, BitVec.not_zero, BitVec.and_allOnes]
  rw [hostWriteReg, hm, hs, h, setReg_readReg]

end Registers

section CmdError
variable (op : BitVec 4) (c : Cause) (s : State)

/-- Everything `raise CmdError` can do (R97): a failing DECODE clears its outputs, any other command changes STATUS
alone. -/
theorem raiseCmdError_cases :
    (op = opcode .decode ∧
      raiseCmdError op c s = { s with status := errorStatus op c, rxHdr := 0#32, plen := 0#32 }) ∨
    (op ≠ opcode .decode ∧ raiseCmdError op c s = { s with status := errorStatus op c }) := by
  by_cases h : op = opcode .decode
  · exact .inl ⟨h, if_pos h⟩
  · exact .inr ⟨h, if_neg h⟩

@[simp] theorem raiseCmdError_status : (raiseCmdError op c s).status = errorStatus op c := by
  unfold raiseCmdError; split <;> rfl
@[simp] theorem raiseCmdError_frame : (raiseCmdError op c s).frame = s.frame := by
  unfold raiseCmdError; split <;> rfl
@[simp] theorem raiseCmdError_txHdr : (raiseCmdError op c s).txHdr = s.txHdr := by
  unfold raiseCmdError; split <;> rfl
@[simp] theorem raiseCmdError_csum : (raiseCmdError op c s).csum = s.csum := by
  unfold raiseCmdError; split <;> rfl
@[simp] theorem raiseCmdError_rxSize : (raiseCmdError op c s).rxSize = s.rxSize := by
  unfold raiseCmdError; split <;> rfl
@[simp] theorem raiseCmdError_csLen : (raiseCmdError op c s).csLen = s.csLen := by
  unfold raiseCmdError; split <;> rfl
@[simp] theorem raiseCmdError_pending : (raiseCmdError op c s).pending = s.pending := by
  unfold raiseCmdError; split <;> rfl
@[simp] theorem raiseCmdError_response : (raiseCmdError op c s).response = s.response := by
  unfold raiseCmdError; split <;> rfl
@[simp] theorem raiseCmdError_decode :
    raiseCmdError (opcode .decode) c s =
      { s with status := errorStatus (opcode .decode) c, rxHdr := 0#32, plen := 0#32 } := rfl
end CmdError

section StatusFields
variable (op cause : BitVec 4) (valid err : Bool)

/-- The four fields of an assembled STATUS word read back (R18). -/
theorem statusWord_fields :
    statusLastOp (statusWord op cause valid err) = op ∧ statusCause (statusWord op cause valid err) = cause ∧
      statusValid (statusWord op cause valid err) = valid ∧ statusErr (statusWord op cause valid err) = err := by
  refine ⟨?_, ?_, ?_, ?_⟩ <;> cases valid <;> cases err <;> revert op cause <;> decide +kernel
end StatusFields

/-- The parameters of this hardware satisfy R7. -/
theorem hw_wf : hw.wf = true := by decide

@[simp] theorem hw_frameLen : hw.frameLen = 1446 := rfl
@[simp] theorem hw_headerLen : hw.headerLen = 6 := rfl
@[simp] theorem hw_maxPayloadLen : hw.maxPayloadLen = 1440 := rfl
@[simp] theorem hw_version : hw.version = 1#2 := rfl

end Sys2Proof.Machine
end

