-- ==== Sys2Proof/Laws/Frame.lean ====
section
/-! SUPPORT. The laws of the frame the encoder assembles, of the bytes the statements read, and of the invariant's parts. -/

namespace Sys2Proof.Machine

section Assemble
variable (c : Config) {m : Memory} (h : Word)

/-- The assembled frame is canonical. -/
theorem assembleFrame_wf (hm : m.wf = true) : (assembleFrame c m h).wf = true :=
  Memory.write16_wf (Memory.write32_wf (Memory.zero_wf hm _ _) _ _) _ _

/-- The assembled frame lists no address at or above a bound the buffer kept. -/
theorem assembleFrame_within {n : Nat} (hn : 6 ≤ n) (hw : m.within n = true) :
    (assembleFrame c m h).within n = true :=
  Memory.write16_within (Memory.write32_within (Memory.zero_within hw _ _) (by omega) _) (by omega) _

/-- The assembled frame, byte by byte: the header from `h`, zero checksum bytes, zero padding, and every other byte (the
payload among them) as it was (R77, R78). -/
theorem assembleFrame_read (hm : m.wf = true) (i : Nat) :
    (assembleFrame c m h).read i =
      if i = 4 ∨ i = 5 then 0#8
      else if i = 0 then h.extractLsb' 24 8 else if i = 1 then h.extractLsb' 16 8
      else if i = 2 then h.extractLsb' 8 8 else if i = 3 then h.extractLsb' 0 8
      else if c.headerLen + (hdrLen h).toNat ≤ i ∧ i < c.frameLen then 0#8
      else m.read i := by
  have hz := Memory.zero_wf hm (c.headerLen + (hdrLen h).toNat) c.frameLen
  rw [assembleFrame, Memory.read_write16 (Memory.write32_wf hz _ _), Memory.read_write32 hz, Memory.read_zero]
  by_cases h4 : i = 4
  · simp [h4]
  · by_cases h5 : i = 5
    · simp [h5]
    · simp [h4, h5]
end Assemble

/-- The bytes the statements read one by one are the byte sequence the commands sum (R10). -/
theorem frameBytes_eq_bytes (s : State) (n : Nat) : frameBytes s n = s.frame.bytes 0 n := by
  simp [frameBytes, Memory.bytes_eq_map]

/-- The invariant of the state as its parts. -/
theorem State.wf_iff (s : State) :
    s.wf = true ↔ s.frame.wf = true ∧ s.frame.within 1446 = true ∧ legalStatus s.status = true ∧
      reservedOk s = true ∧ decoderOutputsOk s = true ∧ statusDescribes s = true := by
  simp [State.wf, and_assoc]

end Sys2Proof.Machine
end

