-- ==== Sys2Proof/Laws/PerInstr.lean ====
section
/-! SUPPORT. Statements made for each command, one lemma for each constructor of Instr. -/

namespace Sys2Proof.Laws

/-- The encoder sets bits 3:0 only: bits 31:4 of the word it writes are 0, as R54 asks of software. -/
def EncodedOpOnly.Statement (i : Instr) : Prop := encode i &&& 0xFFFFFFF0#32 = 0#32

theorem EncodedOpOnly.nop : EncodedOpOnly.Statement .nop := by unfold EncodedOpOnly.Statement; decide
theorem EncodedOpOnly.encode : EncodedOpOnly.Statement .encode := by unfold EncodedOpOnly.Statement; decide
theorem EncodedOpOnly.decode : EncodedOpOnly.Statement .decode := by unfold EncodedOpOnly.Statement; decide
theorem EncodedOpOnly.csum : EncodedOpOnly.Statement .csum := by unfold EncodedOpOnly.Statement; decide
theorem EncodedOpOnly.reserved4 : EncodedOpOnly.Statement .reserved4 := by unfold EncodedOpOnly.Statement; decide
theorem EncodedOpOnly.reserved5 : EncodedOpOnly.Statement .reserved5 := by unfold EncodedOpOnly.Statement; decide
theorem EncodedOpOnly.reserved6 : EncodedOpOnly.Statement .reserved6 := by unfold EncodedOpOnly.Statement; decide
theorem EncodedOpOnly.reserved7 : EncodedOpOnly.Statement .reserved7 := by unfold EncodedOpOnly.Statement; decide
theorem EncodedOpOnly.reserved8 : EncodedOpOnly.Statement .reserved8 := by unfold EncodedOpOnly.Statement; decide
theorem EncodedOpOnly.reserved9 : EncodedOpOnly.Statement .reserved9 := by unfold EncodedOpOnly.Statement; decide
theorem EncodedOpOnly.reservedA : EncodedOpOnly.Statement .reservedA := by unfold EncodedOpOnly.Statement; decide
theorem EncodedOpOnly.reservedB : EncodedOpOnly.Statement .reservedB := by unfold EncodedOpOnly.Statement; decide
theorem EncodedOpOnly.reservedC : EncodedOpOnly.Statement .reservedC := by unfold EncodedOpOnly.Statement; decide
theorem EncodedOpOnly.reservedD : EncodedOpOnly.Statement .reservedD := by unfold EncodedOpOnly.Statement; decide
theorem EncodedOpOnly.reservedE : EncodedOpOnly.Statement .reservedE := by unfold EncodedOpOnly.Statement; decide
theorem EncodedOpOnly.reservedF : EncodedOpOnly.Statement .reservedF := by unfold EncodedOpOnly.Statement; decide

end Sys2Proof.Laws
end

