-- ==== Sys2Proof/Laws/Port.lean ====
section
/-! SUPPORT. The laws of the host port: what each address selects, and everything one input of the host can do. -/

namespace Sys2Proof.Machine

/-- `reg_at` finds exactly the register whose offset the address is (R16). -/
theorem regAt_eq_some_iff (a : Addr) (r : Reg) : regAt a = some r ↔ a = regOffset r := by
  constructor
  · unfold regAt
    split <;> rename_i h <;> intro e
    all_goals first
      | (rw [← Option.some.inj e]; exact BitVec.eq_of_toNat_eq h)
      | simp at e
  · rintro rfl; cases r <;> rfl

@[simp] theorem regAt_regOffset (r : Reg) : regAt (regOffset r) = some r := (regAt_eq_some_iff _ _).2 rfl

/-- `reg_at` finds a register exactly at the aligned addresses of the register window (R36, R38). -/
theorem regAt_isSome_iff (a : Addr) : (regAt a).isSome = true ↔ a.toNat < 0x20 ∧ a.toNat % 4 = 0 := by
  unfold regAt
  split <;> simp_all
  omega

/-- The frame index of an address, where it has one (R37). -/
theorem frameIndex_eq_some_iff (c : Config) (a : Addr) (i : Nat) :
    frameIndex c a = some i ↔ a.toNat = 0x1000 + i ∧ i < c.frameLen := by
  unfold frameIndex frameBase
  split
  · rw [Option.some.injEq]; omega
  · simp only [reduceCtorEq, false_iff]; omega

/-- An address outside the frame window has no frame index (R36). -/
theorem frameIndex_eq_none_iff (c : Config) (a : Addr) :
    frameIndex c a = none ↔ a.toNat < 0x1000 ∨ 0x1000 + c.frameLen ≤ a.toNat := by
  unfold frameIndex frameBase
  split
  · simp only [reduceCtorEq, false_iff]; omega
  · simp only [true_iff]; omega

/-- A transaction carries a command word exactly when it is a Write32 to CMD (R17). -/
theorem commandWord_eq_some_iff (t : Transaction) (v : Word) :
    commandWord t = some v ↔ t = .write32 (regOffset .cmd) v := by
  cases t with
  | write32 a w =>
    simp only [commandWord, Transaction.write32.injEq]
    by_cases h : regAt a = some .cmd
    · simp [(regAt_eq_some_iff a .cmd).1 h]
    · simp only [h, if_false, reduceCtorEq, false_iff]
      exact fun e => h ((regAt_eq_some_iff a .cmd).2 e.1)
  | read32 | read8 | write8 | read16 | write16 => simp [commandWord]

/-- Everything a plain access can do: refused, a read answered with its data, a register write, or one frame byte
written (R39, R40). -/
theorem access_cases (c : Config) (s : State) (t : Transaction) :
    access c s t = s.respond .busError ∨
    (∃ a r, t = .read32 a ∧ regAt a = some r ∧ access c s t = s.respond (.data32 (readReg s r))) ∨
    (∃ a i, t = .read8 a ∧ frameIndex c a = some i ∧ access c s t = s.respond (.data8 (s.frame.read i))) ∨
    (∃ a v r, t = .write32 a v ∧ regAt a = some r ∧ access c s t = (hostWriteReg c s r v).respond .ok) ∨
    (∃ a v i, t = .write8 a v ∧ frameIndex c a = some i ∧
      access c s t = ({ s with frame := s.frame.write i v }).respond .ok) := by
  cases t with
  | read32 a =>
    cases h : regAt a with
    | none => exact .inl (by simp [access, read32, h])
    | some r => exact .inr (.inl ⟨a, r, rfl, h, by simp [access, read32, h]⟩)
  | read8 a =>
    cases h : frameIndex c a with
    | none => exact .inl (by simp [access, read8, h])
    | some i => exact .inr (.inr (.inl ⟨a, i, rfl, h, by simp [access, read8, h]⟩))
  | write32 a v =>
    cases h : regAt a with
    | none => exact .inl (by simp [access, write32, h])
    | some r => exact .inr (.inr (.inr (.inl ⟨a, v, r, rfl, h, by simp [access, write32, h]⟩)))
  | write8 a v =>
    cases h : frameIndex c a with
    | none => exact .inl (by simp [access, write8, h])
    | some i => exact .inr (.inr (.inr (.inr ⟨a, v, i, rfl, h, by simp [access, write8, h]⟩)))
  | read16 a => exact .inl rfl
  | write16 a v => exact .inl rfl

/-- Everything a step can do: idle, take the reset input, run one command, or one plain access (R12, R108, R109). -/
theorem step_cases {s t : State} (h : step s = .next t) :
    (s.pending = [] ∧ t = s) ∨
    (∃ later, s.pending = .reset :: later ∧ t = resetInput later) ∨
    (∃ later v u, s.pending = .access (.write32 (regOffset .cmd) v) :: later ∧
      exec (decode v) { s with pending := later } = .next u ∧ t = u.respond .ok) ∨
    (∃ later tr, s.pending = .access tr :: later ∧ commandWord tr = none ∧
      t = access hw { s with pending := later } tr) := by
  unfold step takeInput at h
  split at h
  · rename_i hp
    exact .inl ⟨hp, by simpa using h.symm⟩
  · rename_i later hp
    exact .inr (.inl ⟨later, hp, by simpa using h.symm⟩)
  · rename_i tr later hp
    unfold transact at h
    split at h
    · rename_i v hv
      rw [(commandWord_eq_some_iff tr v).1 hv] at hp
      cases he : exec (decode v) { s with pending := later } with
      | next u =>
        rw [he] at h
        exact .inr (.inr (.inl ⟨later, v, u, hp, he, by simpa [complete] using h.symm⟩))
      | fault f => rw [he] at h; simp [complete] at h
      | refused r => rw [he] at h; simp [complete] at h
    · rename_i hv
      exact .inr (.inr (.inr ⟨later, tr, hp, hv, by simpa using h.symm⟩))

end Sys2Proof.Machine
end

