-- ==== Sys2Proof/Machine/Script.lean ====
section
/-! DEFINITION. The host script notation of R68 as the inputs it stands for (the expected results of a script are
compared with the state's `response`, they are no input). -/

namespace Sys2Proof.Machine

/-- `wr32 A, V` (R68). -/
def wr32 (a : Addr) (v : Word) : HostInput := .access (.write32 a v)

/-- `rd32 A` (R68). -/
def rd32 (a : Addr) : HostInput := .access (.read32 a)

/-- `wr8 A, V`: the transaction carries V[7:0] (R68). -/
def wr8 (a : Addr) (v : Byte) : HostInput := .access (.write8 a v)

/-- `rd8 A` (R68). -/
def rd8 (a : Addr) : HostInput := .access (.read8 a)

/-- `cmd NAME`: `wr32 CMD, OP` (R68). -/
def cmd (i : Instr) : HostInput := wr32 (regOffset .cmd) (encode i)

/-- `FRAME+i`: the port address 0x1000+i (R68); none where 0x1000+i is not one of the port's 13-bit addresses (R35), which
the spec gives no meaning (DESIGN CHOICE, safe: log entry 16). -/
def frameAddr (i : Nat) : Option Addr :=
  if frameBase + i < 0x2000 then some (BitVec.ofNat 13 (frameBase + i)) else none

/-- The writes `wr8 A+j, bj` in order, for addresses `wrbytes` has checked to be the port's. -/
def wr8s : Nat → List Byte → List HostInput
  | _, [] => []
  | a, b :: bs => wr8 (BitVec.ofNat 13 a) b :: wr8s (a + 1) bs

/-- The reads `rd8 A+j` in order, `n` of them, for addresses `rdbytes` has checked to be the port's. -/
def rd8s : Nat → Nat → List HostInput
  | _, 0 => []
  | a, n + 1 => rd8 (BitVec.ofNat 13 a) :: rd8s (a + 1) n

/-- `wrbytes A, b0 ... bk`; none where an address would not be one of the port's 13-bit addresses (R35, R68; DESIGN
CHOICE, log entry 16). -/
def wrbytes (a : Addr) (bs : List Byte) : Option (List HostInput) :=
  if a.toNat + bs.length ≤ 0x2000 then some (wr8s a.toNat bs) else none

/-- `rdbytes A` of `n` bytes; none where an address would not be one of the port's (R35, R68). -/
def rdbytes (a : Addr) (n : Nat) : Option (List HostInput) :=
  if a.toNat + n ≤ 0x2000 then some (rd8s a.toNat n) else none

end Sys2Proof.Machine
end

