-- ==== Sys2Proof/Tests/Slice0.lean ====
section
/-! SUPPORT. The model's own tests: the command words of 30_encoding.md, a refused term for each well-formedness check, the
vectors of 95_test_vectors.md (each named where it is used), and a witness for each statement with hypotheses. -/

namespace Sys2Proof.Tests

open Sys2Proof Sys2Proof.Machine

/-! ### Helpers -/

/-- The state one step leads to. -/
def after (s : State) : State :=
  match step s with
  | .next t => t
  | .fault _ => s
  | .refused _ => s

/-- The state a command leads to. -/
def run (i : Instr) (s : State) : State :=
  match exec i s with
  | .next t => t
  | .fault _ => s
  | .refused _ => s

/-- The state with one input of the host. -/
def given (s : State) (x : HostInput) : State := { s with pending := [x] }

/-- "hello" at FRAME[6..10] and the TX_HDR of vector E2, before ENCODE. -/
def helloTx : State :=
  { State.reset with txHdr := 0x40050300#32
                     frame := [(6, 0x68#8), (7, 0x65#8), (8, 0x6C#8), (9, 0x6C#8), (10, 0x6F#8)] }

/-- The frame of vector E2 received: header bytes b0 b1 b2 b3 and checksum bytes c0 c1 as given, RX_SIZE = 1446. -/
def helloRx (b0 b1 b2 b3 c0 c1 : Byte) : State :=
  { State.reset with
      rxSize := 0x5A6#32
      frame := ([(0, b0), (1, b1), (2, b2), (3, b3), (4, c0), (5, c1), (6, 0x68#8), (7, 0x65#8), (8, 0x6C#8),
        (9, 0x6C#8), (10, 0x6F#8)] : List Host.Cell).filter fun cell => cell.2 ≠ 0#8 }

/-- The frame of vector D1. -/
def helloGood : State := helloRx 0x40 0x05 0x03 0x00 0x79 0x28

/-! ### The command word (30_encoding.md R54, R56) -/

theorem test_decode_nop : decode 0b00000000000000000000000000000000#32 = .nop := by decide
theorem test_decode_encode : decode 0b00000000000000000000000000000001#32 = .encode := by decide
theorem test_decode_decode : decode 0b00000000000000000000000000000010#32 = .decode := by decide
theorem test_decode_csum : decode 0b00000000000000000000000000000011#32 = .csum := by decide
theorem test_decode_reserved_low :
    [decode 0x4#32, decode 0x5#32, decode 0x6#32, decode 0x7#32, decode 0x8#32, decode 0x9#32] =
      [.reserved4, .reserved5, .reserved6, .reserved7, .reserved8, .reserved9] := by decide
theorem test_decode_reserved_high :
    [decode 0xA#32, decode 0xB#32, decode 0xC#32, decode 0xD#32, decode 0xE#32, decode 0xF#32] =
      [.reservedA, .reservedB, .reservedC, .reservedD, .reservedE, .reservedF] := by decide
/-- Vectors N2 and N8: bits 31:4 are ignored. -/
theorem test_decode_ignores_high_bits : decode 0xFFFFFFF0#32 = .nop ∧ decode 0xABCDEF01#32 = .encode := by decide
theorem test_decodeTableWord : decodeTableWord 8 0x09 = some .reserved9 ∧ decodeTableWord 33 0 = none := by decide

/-! ### An ill-formed term for each check

Of `Instr.wf` there is none: a command has no operand field (R54), so every command is well-formed. -/

theorem test_config_refuses_header : Config.wf { hw with headerLen := 8 } = false := by decide
theorem test_config_refuses_lenBits : Config.wf { hw with lenBits := 12 } = false := by decide
theorem test_config_refuses_addrBits : Config.wf { hw with addrBits := 16 } = false := by decide
theorem test_config_refuses_regDataBits : Config.wf { hw with regDataBits := 16 } = false := by decide
theorem test_config_refuses_frameDataBits : Config.wf { hw with frameDataBits := 32 } = false := by decide
theorem test_config_refuses_version : Config.wf { hw with version := 2#2 } = false := by decide
theorem test_config_refuses_payload : Config.wf { hw with maxPayloadLen := 2048 } = false := by decide
theorem test_config_refuses_frame : Config.wf { hw with maxPayloadLen := 4091 } = false := by decide
theorem test_config_refuses_sum : Config.wf { hw with maxPayloadLen := 131069 } = false := by decide
theorem test_config_refuses_seqBits : Config.wf { hw with seqBits := 9 } = false := by decide
theorem test_config_refuses_accBits : Config.wf { hw with accBits := 31 } = false := by decide
theorem test_memory_refuses_order : Memory.wf [(7, 1#8), (6, 1#8)] = false := by decide
theorem test_memory_refuses_repeat : Memory.wf [(6, 1#8), (6, 2#8)] = false := by decide
theorem test_memory_refuses_unlisted_value : Memory.wf [(6, 0#8)] = false := by decide
theorem test_memory_refuses_outside : Memory.within 1446 [(1446, 1#8)] = false := by decide
theorem test_state_refuses_status : State.wf { State.reset with status := 0x201#32 } = false := by decide
theorem test_state_refuses_reserved : State.wf { State.reset with txHdr := 0x40004000#32 } = false := by decide
theorem test_state_refuses_plen : State.wf { State.reset with plen := 1#32 } = false := by decide
theorem test_state_refuses_stale_valid : State.wf { State.reset with status := 0x202#32 } = false := by decide

/-! ### The checksum function (vectors K1, K3, K5, K7, K9) -/

theorem test_csum16_vectors :
    csum16 [] = 0xFFFF#16 ∧ csum16 [0x01] = 0xFEFF#16 ∧ csum16 [0xFF, 0xFF] = 0x0000#16 ∧
      csum16 [0xFF, 0xFF, 0xFF, 0xFF, 0x00, 0x01] = 0xFFFE#16 ∧
      csum16 [0x68, 0x65, 0x6C, 0x6C, 0x6F] = 0xBC2D#16 := by decide
/-- Vectors K10 and K11: a frame of zeros, a frame of 0xFF. -/
theorem test_csum16_full_frame :
    csum16 (List.replicate 1446 0x00#8) = 0xFFFF#16 ∧ csum16 (List.replicate 1446 0xFF#8) = 0x0000#16 := by
  decide +kernel

/-! ### The commands -/

/-- Vector E2. -/
theorem test_encode_hello :
    frameBytes (run .encode helloTx) 12 =
        [0x40, 0x05, 0x03, 0x00, 0x79, 0x28, 0x68, 0x65, 0x6C, 0x6C, 0x6F, 0x00] ∧
      (run .encode helloTx).csum = 0x7928#32 ∧ (run .encode helloTx).status = 0x100#32 := by decide +kernel
/-- Vector E12. -/
theorem test_encode_len_1441 :
    run .encode { helloTx with txHdr := 0x45A10000#32 } =
      { helloTx with txHdr := 0x45A10000#32, status := 0x141#32 } := by decide +kernel
/-- Vectors D14 and D17: LENGTH 2047 clamped; SEQ and ACK_NUM above 63 reported raw. -/
theorem test_decode_clamps_and_keeps_raw :
    (run .decode (helloRx 0x47 0xFF 0x03 0x00 0x71 0x2E)).plen = 1440#32 ∧
      (run .decode (helloRx 0x47 0xFF 0x03 0x00 0x71 0x2E)).rxHdr = 0x47FF0300#32 ∧
      (run .decode (helloRx 0x40 0x05 0xFF 0x80 0x7C 0xA7)).rxHdr = 0x4005FF80#32 := by decide +kernel
/-- Vectors D10 (bad version and bad checksum), D13 (bad version alone) and D2 (bad size). -/
theorem test_decode_reports_first_failure :
    ((run .decode (helloRx 0xC0 0x05 0x03 0x00 0x79 0x28)).status = 0x221#32 ∧
      (run .decode (helloRx 0xC0 0x05 0x03 0x00 0x79 0x28)).csum = 0x7FFF#32) ∧
    (run .decode (helloRx 0xC0 0x05 0x03 0x00 0xF9 0x27)).status = 0x231#32 ∧
    (run .decode { helloGood with rxSize := 1445#32 }).status = 0x211#32 := by decide +kernel
/-- Vectors K12, K13 and K14. -/
theorem test_csum_of_encoded_frame :
    (run .csum { helloGood with csLen := 1446#32 }).csum = 0#32 ∧
      (run .csum { helloGood with csLen := 1445#32 }).csum = 0#32 ∧
      (run .csum { helloGood with csLen := 6#32 }).csum = 0x43D2#32 := by decide +kernel
/-- Vector K15. -/
theorem test_csum_len_1447 :
    run .csum { helloGood with csLen := 1447#32 } = { helloGood with csLen := 1447#32, status := 0x341#32 } := by
  decide +kernel
/-- Vector N1. -/
theorem test_nop_keeps_status : run .nop { helloGood with status := 0x221#32 } = { helloGood with status := 0x221#32 } := by
  decide +kernel
/-- Vectors N3, N4, N5 and N6. -/
theorem test_reserved_status :
    (run .reserved4 helloGood).status = 0x451#32 ∧ (run .reserved7 helloGood).status = 0x751#32 ∧
      (run .reserved9 helloGood).status = 0x951#32 ∧ (run .reservedF helloGood).status = 0xF51#32 := by decide +kernel
/-- Vector N7: a reserved code after a successful DECODE keeps RX_HDR and PLEN. -/
theorem test_reserved_keeps_decoder_outputs :
    (run .reserved5 (run .decode helloGood)).rxHdr = 0x40050300#32 ∧ (run .reserved5 (run .decode helloGood)).plen = 5#32 ∧
      (run .reserved5 (run .decode helloGood)).status = 0x551#32 := by decide +kernel

/-! ### The port (vectors B1 to B9, the TX_HDR write vectors of section 2.2, D25) -/

theorem test_port_reads :
    (after (given helloGood (rd32 0x000))).response = some (.data32 0#32) ∧
      (after (given helloGood (rd8 0x1000))).response = some (.data8 0x40#8) ∧
      (after (given helloGood (rd8 0x15A5))).response = some (.data8 0x00#8) := by decide +kernel
theorem test_port_bus_errors :
    (after (given helloGood (rd32 0x002))).response = some .busError ∧
      (after (given helloGood (wr8 0x004 0x01))).response = some .busError ∧
      (after (given helloGood (wr32 0x020 0x5))).response = some .busError ∧
      (after (given helloGood (rd32 0x1000))).response = some .busError ∧
      (after (given helloGood (rd8 0x15A6))).response = some .busError := by decide +kernel
theorem test_port_register_writes :
    (after (given helloGood (wr32 0x004 0xFFFFFFFF))).status = 0#32 ∧
      (after (given helloGood (wr32 0x018 0xFFFF0003))).csLen = 3#32 ∧
      (after (given helloGood (wr32 0x014 0x100005A6))).rxSize = 0x5A6#32 := by decide +kernel
theorem test_port_tx_hdr_writes :
    (after (given helloGood (wr32 0x008 0x00004040))).txHdr = 0x40000000#32 ∧
      (after (given helloGood (wr32 0x008 0xFFFFFFFF))).txHdr = 0x7FFF3F3F#32 ∧
      (after (given helloGood (wr32 0x008 0x3DA0FFFF))).txHdr = 0x7DA03F3F#32 := by decide +kernel
/-- Vector N8 on the port, and the register masks of R39's table. -/
theorem test_port_command :
    (after (given helloTx (wr32 0x000 0xABCDEF01))).csum = 0x7928#32 ∧
      (after (given helloTx (cmd .encode))).response = some .ok := by decide +kernel
theorem test_masks : writeMask hw .txHdr = 0x3FFF3F3F#32 ∧ writeSet hw .txHdr = 0x40000000#32 := by decide
theorem test_fetch_word : after (State.reset.withFetchWord 8 0x07) =
    { State.reset with status := 0x751#32, response := some .ok } := by decide +kernel
theorem test_script_wrbytes :
    wrbytes 0x1006 [0x68, 0x65] = some [wr8 0x1006 0x68, wr8 0x1007 0x65] ∧
      wrbytes 0x1FFF [0x00, 0x00] = none ∧ rdbytes 0x1000 2 = some [rd8 0x1000, rd8 0x1001] := by decide
/-- `FRAME+i` up to the last 13-bit address, and past it, where it must not become 0x0000 (CMD). -/
theorem test_script_frameAddr :
    frameAddr 6 = some 0x1006#13 ∧ frameAddr 0xFFF = some 0x1FFF#13 ∧ frameAddr 0x1000 = none := by decide

/-! ### Witnesses: a concrete state and operands that meet the hypotheses of each statement -/

theorem witness_DecodeFollowsOpcodeMap :
    (List.range 16).map (fun k => (0xFFFFFFF0#32 + BitVec.ofNat 32 k) &&& 0xF#32) =
      [0x0#32, 0x1, 0x2, 0x3, 0x4, 0x5, 0x6, 0x7, 0x8, 0x9, 0xA, 0xB, 0xC, 0xD, 0xE, 0xF] := by decide
theorem witness_DecodeAndEncodeAgree : Instr.wf .reservedF = true := by decide
theorem witness_StepRunsDecodedCommand :
    (given helloGood (wr32 0x000 0x2)).pending = .access (.write32 0x000#13 0x2#32) :: [] ∧
      (decode 0x2#32).wf = true ∧ exec (decode 0x2#32) helloGood = .next (runDecode hw helloGood) := ⟨rfl, rfl, rfl⟩
theorem witness_IdleBlockKeepsState : helloGood.pending = [] := rfl
theorem witness_ResetInputRestoresReset : (given helloGood .reset).pending = .reset :: [] := rfl

theorem witness_RefusedTransactionsChangeNothing :
    (given helloGood (rd32 0x020)).pending = .access (.read32 0x020) :: [] ∧
      ([.read32 0x020, .read32 0x01E, .write32 0x1000 0, .read8 0x0FFF, .read8 0x15A6, .write8 0x1FFF 0, .read16 0x1000,
        .write16 0x000 0] : List Transaction).all (fun t => !portAccepts t) = true := by decide
theorem witness_AcceptedTransactionsAnswerOk :
    (given helloGood (rd32 0x01C)).pending = .access (.read32 0x01C) :: [] ∧
      ([.read32 0x000, .write32 0x01C 0, .read8 0x1000, .write8 0x15A5 0] : List Transaction).all portAccepts = true ∧
      step (given helloGood (rd32 0x01C)) = .next { helloGood with response := some (.data32 0#32) } :=
  ⟨rfl, by decide, rfl⟩
theorem witness_ReadsHaveNoSideEffect :
    (given helloGood (rd32 0x000)).pending = .access (.read32 (regOffset .cmd)) :: [] ∧
      (given helloGood (rd32 0x01C)).pending = .access (.read32 (regOffset .plen)) :: [] ∧
      (given helloGood (rd8 0x1000)).pending = .access (.read8 0x1000#13) :: [] ∧
      (given helloGood (rd8 0x15A5)).pending = .access (.read8 0x15A5#13) :: [] ∧
      0x1000 ≤ (0x1000#13).toNat ∧ (0x1000#13).toNat ≤ 0x15A5 ∧
      0x1000 ≤ (0x15A5#13).toNat ∧ (0x15A5#13).toNat ≤ 0x15A5 := by decide
theorem witness_TxHdrWriteKeepsWritableBits :
    (given helloGood (wr32 0x008 0xFFFFFFFF)).wf = true ∧
      (given helloGood (wr32 0x008 0xFFFFFFFF)).pending = .access (.write32 0x008#13 0xFFFFFFFF#32) :: [] := by
  decide +kernel
theorem witness_OtherRegisterWrites :
    (given helloGood (wr32 0x014 7)).wf = true ∧
      (given helloGood (wr32 0x014 7)).pending = .access (.write32 0x014#13 7#32) :: [] ∧
      (given helloGood (wr32 0x018 7)).wf = true ∧
      (given helloGood (wr32 0x018 7)).pending = .access (.write32 0x018#13 7#32) :: [] ∧
      (given helloGood (wr32 0x01C 7)).wf = true ∧ 0x01C#13 ∈ [0x004#13, 0x00C#13, 0x010#13, 0x01C#13] ∧
      (given helloGood (wr32 0x01C 7)).pending = .access (.write32 0x01C#13 7#32) :: [] := by decide +kernel
theorem witness_FrameWindowWriteSetsOneByte :
    (given helloGood (wr8 0x15A5 1)).frame.wf = true ∧ 0x1000 ≤ (0x15A5#13).toNat ∧ (0x15A5#13).toNat ≤ 0x15A5 ∧
      (given helloGood (wr8 0x15A5 1)).pending = .access (.write8 0x15A5#13 1#8) :: [] ∧
      0x1000 ≤ (0x1000#13).toNat ∧
      (given helloGood (wr8 0x1000 1)).pending = .access (.write8 0x1000#13 1#8) :: [] := by decide +kernel
theorem witness_FrameChangesOnlyByWriteEncodeReset :
    (given helloGood (wr8 0x15A5 1)).frame.wf = true ∧
      (after (given helloGood (wr8 0x15A5 1))).frame.read 1445 ≠ (given helloGood (wr8 0x15A5 1)).frame.read 1445 ∧
      (given helloTx (cmd .encode)).frame.wf = true ∧
      (after (given helloTx (cmd .encode))).frame.read 5 ≠ (given helloTx (cmd .encode)).frame.read 5 ∧
      (after (given helloGood .reset)).frame.read 0 ≠ (given helloGood .reset).frame.read 0 := by decide +kernel
theorem witness_ReadOnlyRegistersChangeOnlyByCommands :
    (¬ ResetNext (given helloGood (cmd .decode)) ∧ ¬ ResetNext (given helloTx (cmd .encode))) ∧
      (after (given helloGood (cmd .decode))).status ≠ (given helloGood (cmd .decode)).status ∧
      (after (given helloGood (cmd .decode))).rxHdr ≠ (given helloGood (cmd .decode)).rxHdr ∧
      (after (given helloGood (cmd .decode))).plen ≠ (given helloGood (cmd .decode)).plen ∧
      (after (given helloTx (cmd .encode))).csum ≠ (given helloTx (cmd .encode)).csum := by
  refine ⟨⟨fun ⟨_, h⟩ => ?_, fun ⟨_, h⟩ => ?_⟩, by decide +kernel⟩ <;> simp [given, cmd, wr32] at h
theorem witness_EngineNeverWritesHostRegisters : exec .decode helloGood = .next (runDecode hw helloGood) := rfl

theorem witness_NopChangesNothing :
    (given helloGood (wr32 0x000 0xFFFFFFF0)).pending = .access (.write32 0x000#13 0xFFFFFFF0#32) :: [] ∧
      0xFFFFFFF0#32 &&& 0x0000000F#32 = 0x0#32 := by decide
theorem witness_ReservedWordsFailOnThePort :
    (given helloGood (wr32 0x000 0xFFFFFFF4)).pending = .access (.write32 0x000#13 0xFFFFFFF4#32) :: [] ∧
      0x4#32 ≤ (0xFFFFFFF4#32 &&& 0x0000000F#32) ∧ 0x4#32 ≤ (0x0000000F#32 &&& 0x0000000F#32) := by decide
theorem witness_StatusAfterACommand :
    Instr.decode ≠ .nop ∧ exec .decode helloGood = .next (runDecode hw helloGood) := ⟨by decide, rfl⟩
theorem witness_NoCommandReadsStatus : Instr.encode ≠ .nop := by decide
theorem witness_CommandErrorsArePrecise :
    (Instr.reserved7 ≠ .nop ∧ Instr.reserved7 ≠ .decode ∧
      exec .reserved7 helloGood = .next { helloGood with status := 0x751#32 } ∧ statusErr 0x751#32 = true) ∧
    exec .decode State.reset = .next { State.reset with status := 0x211#32 } ∧ statusErr 0x211#32 = true ∧
      statusCause 0x211#32 = 1#4 := ⟨⟨by decide, by decide, rfl, by decide⟩, by rfl, by decide, by decide⟩

theorem witness_TwoFoldsConverge :
    (List.replicate 1446 0xFF#8).length ≤ 1446 ∧ (List.replicate 1446 0xFF#8).length ≤ 131074 ∧
      2 ^ 32 - 1 < 2 ^ 32 ∧ 0x10000 ≤ fold16 (2 ^ 32 - 1) := by decide +kernel
theorem witness_ChecksumResidue :
    [0xFF#8, 0xFF#8].length ≤ 131074 ∧ wordSum [0x00#8] = 0 ∧ 0 < wordSum [0xFF#8, 0xFF#8] ∧
      wordSum [0xFF#8, 0xFF#8] % 65535 = 0 ∧ 0 < wordSum [0x01#8] := by decide
theorem witness_OddLengthPadsOneZeroByte : [0x01#8, 0x02#8, 0x03#8].length % 2 = 1 := by decide
theorem witness_WordOrderDoesNotMatter : [0x6865#16, 0x6C6C#16].Perm [0x6C6C#16, 0x6865#16] := List.Perm.swap _ _ _
theorem witness_EndAroundCarryAgrees : [0xFF#8, 0xFF#8, 0x00#8, 0x01#8].length ≤ 131074 := by decide
theorem witness_ZeroAndAllOnesWordsAlike :
    [0x4005#16].length + [0x0001#16].length < 65537 ∧ ∃ w ∈ [0x4005#16] ++ [0x0001#16], w ≠ 0x0000#16 :=
  ⟨by decide, 0x4005#16, by decide, by decide⟩
theorem witness_EmbeddedChecksumVerifies :
    6 ≤ (frameBytes helloTx 6).length ∧ (frameBytes helloTx 1446).length ≤ 131074 := by decide +kernel
theorem witness_CongruentSumsAreNotDistinguished :
    [0xFF#8, 0xFF#8].length ≤ 131074 ∧ [0xFF#8, 0xFF#8, 0xFF#8, 0xFF#8].length ≤ 131074 ∧ 0 < wordSum [0xFF#8, 0xFF#8] ∧
      0 < wordSum [0xFF#8, 0xFF#8, 0xFF#8, 0xFF#8] ∧
      wordSum [0xFF#8, 0xFF#8] % 65535 = wordSum [0xFF#8, 0xFF#8, 0xFF#8, 0xFF#8] % 65535 := by decide

theorem witness_CsumCommand :
    ({ helloGood with csLen := 1446#32 } : State).csLen.toNat % 65536 ≤ 1446 ∧
      1446 < ({ helloGood with csLen := 1447#32 } : State).csLen.toNat % 65536 := by decide
theorem witness_EncodeBuildsFrame :
    helloTx.frame.wf = true ∧ ({ helloTx with txHdr := 0x45A00000#32 } : State).txHdr.toNat / 65536 % 2048 ≤ 1440 ∧
      1440 < ({ helloTx with txHdr := 0x45A10000#32 } : State).txHdr.toNat / 65536 % 2048 := by decide +kernel
theorem witness_EncodeReadsOnlyHeaderAndPayload :
    helloTx.frame.wf = true ∧ (run .encode helloTx).frame.wf = true ∧ helloTx.txHdr = (run .encode helloTx).txHdr ∧
      helloTx.txHdr.toNat / 65536 % 2048 ≤ 1440 ∧
      (∀ i < 11, 6 ≤ i → i < 6 + helloTx.txHdr.toNat / 65536 % 2048 →
        helloTx.frame.read i = (run .encode helloTx).frame.read i) ∧
      helloTx.frame ≠ (run .encode helloTx).frame := by decide +kernel
theorem witness_EncodedFramesDecodeToWhatWasEncoded :
    helloTx.wf = true ∧ helloTx.txHdr.toNat / 65536 % 2048 ≤ 1440 := by decide +kernel
theorem witness_DecodeOfAValidFrame :
    helloGood.rxSize.toNat % 65536 = 1446 ∧ csum16 (frameBytes helloGood 1446) = 0x0000#16 ∧
      (helloGood.frame.read 0).toNat / 64 = 1 := by decide +kernel
theorem witness_DecodeReportsTheFirstFailure :
    (helloRx 0xC0 0x05 0x03 0x00 0x79 0x28).rxSize.toNat % 65536 = 1446 ∧
      csum16 (frameBytes (helloRx 0xC0 0x05 0x03 0x00 0x79 0x28) 1446) ≠ 0x0000#16 ∧
      (helloRx 0x00 0x05 0x03 0x00 0xB9 0x28).rxSize.toNat % 65536 = 1446 ∧
      csum16 (frameBytes (helloRx 0x00 0x05 0x03 0x00 0xB9 0x28) 1446) = 0x0000#16 ∧
      ((helloRx 0x00 0x05 0x03 0x00 0xB9 0x28).frame.read 0).toNat / 64 ≠ 1 ∧
      State.reset.rxSize.toNat % 65536 ≠ 1446 ∧
      helloGood.rxSize.toNat % 65536 = 1446 ∧ csum16 (frameBytes helloGood 1446) = 0x0000#16 ∧
      (helloGood.frame.read 0).toNat / 64 = 1 := by decide +kernel
theorem witness_DecodeAcceptsExactlyValidFrames : exec .decode helloGood = .next (runDecode hw helloGood) := rfl
theorem witness_OnlyEncodeWritesTheFrame :
    Instr.decode ≠ .encode ∧ exec .decode helloGood = .next (runDecode hw helloGood) := ⟨by decide, rfl⟩
theorem witness_RegisterImageMatchesFrame :
    helloTx.frame.wf = true ∧ statusErr (run .encode helloTx).status = false ∧
      statusErr (run .decode helloGood).status = false ∧
      (given helloGood (wr8 0x1000 0)).pending = .access (.write8 0x1000#13 0#8) :: [] := by decide +kernel
theorem witness_HeaderIsAssembledFromFields :
    ({ helloTx with txHdr := 0x7DA03F3F#32 } : State).wf = true ∧
      ({ helloTx with txHdr := 0x7DA03F3F#32 } : State).txHdr.toNat / 65536 % 2048 ≤ 1440 := by decide +kernel
theorem witness_SingleBitErrorsAreDetected :
    helloGood.frame.wf = true ∧ helloGood.rxSize.toNat % 65536 = 1446 ∧
      csum16 (frameBytes helloGood 1446) = 0x0000#16 ∧ 1445 < 1446 ∧ 7 < 8 := by decide +kernel
theorem witness_EveryStepKeepsStateWellFormed :
    (given helloGood (cmd .decode)).wf = true ∧
      step (given helloGood (cmd .decode)) = .next ((runDecode hw helloGood).respond .ok) := ⟨by decide +kernel, rfl⟩

end Sys2Proof.Tests
end

section
/-! ### Scope: what one transaction of the host's port does (R12, R13, R17, R38, R39), and the state after reset -/

namespace Sys2Proof.Machine

section Steps
variable {s : State} {later : List HostInput}

/-- A step whose next input is a transaction takes that transaction whole (R12, R47). -/
theorem step_of_pending_access {t : Transaction} (hp : s.pending = .access t :: later) :
    step s = transact { s with pending := later } t := by
  rw [step, takeInput, hp]

/-- A Write32 to CMD runs the command its word decodes to (R17). -/
theorem transact_commandWrite (s : State) (v : Word) :
    transact s (.write32 (regOffset .cmd) v) = complete (exec (decode v) s) := by
  rw [transact, (commandWord_eq_some_iff _ v).2 rfl]

/-- A step on a Write32 to CMD: the decoded command runs with the input taken, then the port answers `Ok` (R12, R17). -/
theorem step_of_commandWrite {v : Word} {t : State}
    (hp : s.pending = .access (.write32 (regOffset .cmd) v) :: later)
    (he : exec (decode v) { s with pending := later } = .next t) : step s = .next (t.respond .ok) := by
  rw [step_of_pending_access hp, transact_commandWrite, he, complete]

end Steps

/-- The input `withFetchWord` puts in front for a 32-bit word is the Write32 of that word to CMD. -/
theorem commandInput_toNat (v : Word) : commandInput 32 v.toNat = .access (.write32 (regOffset .cmd) v) := by
  rw [commandInput, Nat.mod_eq_of_lt v.isLt, BitVec.ofNat_toNat, BitVec.setWidth_eq]

section Accepted
variable {a : Addr} {t : Transaction}

/-- An aligned address of the register window holds a register (R36, R38). -/
theorem exists_regAt_of_aligned (h : a.toNat < 0x20 ∧ a.toNat % 4 = 0) : ∃ r, regAt a = some r :=
  Option.isSome_iff_exists.1 ((regAt_isSome_iff a).2 h)

/-- An address of the frame window 0x1000-0x15A5 has its frame index at this hardware's parameters (R36, R37). -/
theorem frameIndex_hw_of_window (h : 0x1000 ≤ a.toNat ∧ a.toNat ≤ 0x15A5) :
    frameIndex hw a = some (a.toNat - 0x1000) := by
  rw [frameIndex_eq_some_iff, hw_frameLen]
  omega

/-- A plain access the port accepts is answered, and not with `BusError` (R13, R38, R39). -/
theorem access_response_of_portAccepts (s : State) (h : portAccepts t = true) :
    ∃ r, (access hw s t).response = some r ∧ r ≠ .busError := by
  cases t with
  | read32 a =>
    obtain ⟨q, hq⟩ := exists_regAt_of_aligned (of_decide_eq_true h)
    exact ⟨.data32 (readReg s q), by simp [access, read32, hq], nofun⟩
  | write32 a v =>
    obtain ⟨q, hq⟩ := exists_regAt_of_aligned (of_decide_eq_true h)
    exact ⟨.ok, by simp [access, write32, hq], nofun⟩
  | read8 a =>
    have hi := frameIndex_hw_of_window (of_decide_eq_true h)
    exact ⟨.data8 (s.frame.read (a.toNat - 0x1000)), by simp [access, read8, hi], nofun⟩
  | write8 a v =>
    have hi := frameIndex_hw_of_window (of_decide_eq_true h)
    exact ⟨.ok, by simp [access, write8, hi], nofun⟩
  | read16 a => exact absurd h Bool.false_ne_true
  | write16 a v => exact absurd h Bool.false_ne_true

/-- The step on an accepted transaction, command or plain access, leaves a response that is not `BusError`. -/
theorem step_response_of_portAccepts {s u : State} {later : List HostInput}
    (hp : s.pending = .access t :: later) (ha : portAccepts t = true) (hs : step s = .next u) :
    ∃ r, u.response = some r ∧ r ≠ .busError := by
  obtain ⟨he, -⟩ | ⟨_, he, -⟩ | ⟨_, _, w, -, -, rfl⟩ | ⟨later', t', he, -, rfl⟩ := step_cases hs
  · exact absurd (hp.symm.trans he) nofun
  · exact absurd (hp.symm.trans he) nofun
  · exact ⟨.ok, respond_response w .ok, nofun⟩
  · obtain ⟨rfl, rfl⟩ : t = t' ∧ later = later' := by simpa using hp.symm.trans he
    exact access_response_of_portAccepts _ ha

end Accepted

/-- The state after reset satisfies every part of the invariant (R34). -/
theorem State.reset_wf : State.reset.wf = true := by
  refine (State.wf_iff _).2 ⟨rfl, rfl, ?status, ?reserved, ?outputs, ?describes⟩
  case status => decide
  case reserved => decide
  case outputs => decide
  case describes => decide

/-- Settles O11: of all a step can do, only the command and the plain access fit the input, and both answer. -/
theorem acceptedTransactionsAnswerOk : Obligations.AcceptedTransactionsAnswerOk := by
  intro s u t later hp ha hs
  obtain ⟨r, hr, hne⟩ := step_response_of_portAccepts hp ha hs
  simp [hr, hne]

/-- Settles O4: both clauses are the step on a Write32 to CMD, which `withFetchWord` puts in front of the inputs. -/
theorem stepRunsDecodedCommand : Obligations.StepRunsDecodedCommand := by
  constructor
  · intro s v later hp _ t he
    exact step_of_commandWrite hp he
  · intro s t v he
    have hp : (s.withFetchWord 32 v.toNat).pending = .access (.write32 (regOffset .cmd) v) :: s.pending := by
      rw [withFetchWord_pending, commandInput_toNat]
    exact step_of_commandWrite hp he

/-- Settles O44 from the two parts of the claim: the reset state and this hardware's configuration. -/
theorem resetStateIsWellFormed : Obligations.ResetStateIsWellFormed := ⟨State.reset_wf, hw_wf⟩

end Sys2Proof.Machine

end

section
/-! ### Scope: everything a command can do (R12, R56, R57), and what each kind of command leaves unchanged -/

namespace Sys2Proof.Machine

section Dispatch
variable (s : State)

theorem exec_nop : exec .nop s = .next s := rfl
theorem exec_encode : exec .encode s = .next (runEncode hw s) := rfl
theorem exec_decode : exec .decode s = .next (runDecode hw s) := rfl
theorem exec_csum : exec .csum s = .next (runCsum hw s) := rfl

/-- The twelve reserved codes share one meaning (R92). -/
theorem exec_reserved {i : Instr} (hi : i ∉ [Instr.nop, .encode, .decode, .csum]) :
    exec i s = .next (runReserved (opcode i) s) := by
  cases i with
  | nop | encode | decode | csum => simp at hi
  | _ => rfl

end Dispatch

/-- The checksum ENCODE computes: over the whole assembled frame, its checksum field zero (R77). -/
def encodedSum (s : State) : Half := csum16 ((assembleFrame hw s.frame s.txHdr).bytes 0 1446)

/-- The frame ENCODE leaves: the assembled frame with its checksum in bytes 4-5 (R77). -/
def encodedFrame (s : State) : Memory := (assembleFrame hw s.frame s.txHdr).write16 4 (encodedSum s)

/-- `CommandEffect s i t`: command `i` leads from `s` to `t`. One constructor for each outcome of a command, under the
guard that selects it (R73, R77, R82 to R86, R91, R92). -/
inductive CommandEffect (s : State) : Instr → State → Prop
  | nop : CommandEffect s .nop s
  | encoded (hlen : (hdrLen s.txHdr).toNat ≤ 1440) :
      CommandEffect s .encode { s with
        frame := encodedFrame s, csum := (encodedSum s).setWidth 32
        status := successStatus (opcode .encode) false }
  | encodeRange (hlen : 1440 < (hdrLen s.txHdr).toNat) :
      CommandEffect s .encode { s with status := errorStatus (opcode .encode) .lenRange }
  | summed (hn : (csLenN s.csLen).toNat ≤ 1446) :
      CommandEffect s .csum { s with
        csum := (csum16 (s.frame.bytes 0 (csLenN s.csLen).toNat)).setWidth 32
        status := successStatus (opcode .csum) false }
  | csumRange (hn : 1446 < (csLenN s.csLen).toNat) :
      CommandEffect s .csum { s with status := errorStatus (opcode .csum) .lenRange }
  | decoded (hsize : (rxSizeSize s.rxSize).toNat = 1446) (hsum : verification hw s.frame = 0#16)
      (hver : w0Version (s.frame.read16 0) = 1#2) :
      CommandEffect s .decode { s with
        csum := 0#32, rxHdr := s.frame.read32 0
        plen := BitVec.ofNat 32 (deliveredLen hw (s.frame.read16 0))
        status := successStatus (opcode .decode) true }
  | badSize (hsize : (rxSizeSize s.rxSize).toNat ≠ 1446) :
      CommandEffect s .decode { s with
        rxHdr := 0#32, plen := 0#32, status := errorStatus (opcode .decode) .badSize }
  | badCsum (hsize : (rxSizeSize s.rxSize).toNat = 1446) (hsum : verification hw s.frame ≠ 0#16) :
      CommandEffect s .decode { s with
        csum := (verification hw s.frame).setWidth 32, rxHdr := 0#32, plen := 0#32
        status := errorStatus (opcode .decode) .badCsum }
  | badVersion (hsize : (rxSizeSize s.rxSize).toNat = 1446) (hsum : verification hw s.frame = 0#16)
      (hver : w0Version (s.frame.read16 0) ≠ 1#2) :
      CommandEffect s .decode { s with
        csum := 0#32, rxHdr := 0#32, plen := 0#32, status := errorStatus (opcode .decode) .badVersion }
  | illegal {i : Instr} (hi : i ∉ [Instr.nop, .encode, .decode, .csum]) :
      CommandEffect s i { s with status := errorStatus (opcode i) .illegalCmd }

/-- A failing command other than DECODE changes STATUS alone (R97). -/
theorem raiseCmdError_of_ne_decode {i : Instr} (hi : i ≠ .decode) (c : Cause) (s : State) :
    raiseCmdError (opcode i) c s = { s with status := errorStatus (opcode i) c } := by
  have hop : opcode i ≠ opcode .decode := by revert hi; cases i <;> decide
  exact if_neg hop

theorem runEncode_effect (s : State) : CommandEffect s .encode (runEncode hw s) := by
  unfold runEncode
  split
  next hlen =>
    rw [raiseCmdError_of_ne_decode (i := .encode) nofun]
    exact .encodeRange hlen
  next hlen => exact .encoded (Nat.not_lt.1 hlen)

theorem runCsum_effect (s : State) : CommandEffect s .csum (runCsum hw s) := by
  unfold runCsum
  split
  next hn =>
    rw [raiseCmdError_of_ne_decode (i := .csum) nofun]
    exact .csumRange hn
  next hn => exact .summed (Nat.not_lt.1 hn)

theorem runDecode_effect (s : State) : CommandEffect s .decode (runDecode hw s) := by
  unfold runDecode
  split
  next hsize => exact .badSize hsize
  next hsize =>
    have hsize := not_not.1 hsize
    unfold decodeVerified
    split
    next hsum => exact .badCsum hsize hsum
    next hsum =>
      have hsum : verification hw s.frame = 0#16 := not_not.1 hsum
      rw [hsum]
      split
      next hver => exact .badVersion hsize hsum hver
      next hver => exact .decoded hsize hsum (not_not.1 hver)

/-- Everything a command can do. -/
theorem exec_effect {i : Instr} {s t : State} (h : exec i s = .next t) : CommandEffect s i t := by
  by_cases hi : i ∈ [Instr.nop, .encode, .decode, .csum]
  · obtain rfl | rfl | rfl | rfl : i = .nop ∨ i = .encode ∨ i = .decode ∨ i = .csum := by simpa using hi
    · rw [exec_nop] at h; cases h; exact .nop
    · rw [exec_encode] at h; cases h; exact runEncode_effect s
    · rw [exec_decode] at h; cases h; exact runDecode_effect s
    · rw [exec_csum] at h; cases h; exact runCsum_effect s
  · rw [exec_reserved s hi, runReserved, raiseCmdError_of_ne_decode (by rintro rfl; simp at hi)] at h
    cases h
    exact .illegal hi

namespace CommandEffect
variable {s t : State} {i : Instr}

/-- No command writes a register of the host or the host's side of the port (R22, R24, R57). -/
theorem host_fields (h : CommandEffect s i t) :
    t.txHdr = s.txHdr ∧ t.rxSize = s.rxSize ∧ t.csLen = s.csLen ∧ t.pending = s.pending ∧
      t.response = s.response := by
  cases h <;> exact ⟨rfl, rfl, rfl, rfl, rfl⟩

/-- Only a successful ENCODE writes the frame buffer (R77, R82, R90). -/
theorem encoded_of_frame_ne (h : CommandEffect s i t) (hne : t.frame ≠ s.frame) :
    i = .encode ∧ (hdrLen s.txHdr).toNat ≤ 1440 ∧ t.frame = encodedFrame s := by
  cases h with
  | encoded hlen => exact ⟨rfl, hlen, rfl⟩
  | _ => exact absurd rfl hne

/-- NOP keeps STATUS (R91). -/
theorem ne_nop_of_status_ne (h : CommandEffect s i t) (hne : t.status ≠ s.status) : i ≠ .nop := by
  rintro rfl
  cases h with
  | nop => exact hne rfl
  | illegal hi => simp at hi

/-- Only DECODE writes its outputs RX_HDR and PLEN (R25, R27). -/
theorem decode_of_outputs_ne (h : CommandEffect s i t) (hne : t.rxHdr ≠ s.rxHdr ∨ t.plen ≠ s.plen) :
    i = .decode := by
  cases h with
  | decoded | badSize | badCsum | badVersion => rfl
  | _ => simp at hne

/-- Only ENCODE, DECODE and CSUM write CSUM (R26). -/
theorem checksums_of_csum_ne (h : CommandEffect s i t) (hne : t.csum ≠ s.csum) :
    i = .encode ∨ i = .decode ∨ i = .csum := by
  cases h with
  | encoded | summed | decoded | badCsum | badVersion => simp
  | _ => exact absurd rfl hne

/-- The STATUS a command leaves: its success word (R33), or its error word with a cause that R96 gives it. -/
theorem status_cases (h : CommandEffect s i t) (hi : i ≠ .nop) :
    (i ∈ [Instr.encode, .decode, .csum] ∧ t.status = successStatus (opcode i) (decide (i = .decode))) ∨
    ∃ c, t.status = errorStatus (opcode i) c ∧
      (i = .decode ∧ c ∈ [Cause.badSize, .badCsum, .badVersion] ∨
        i ∈ [Instr.encode, .csum] ∧ c = .lenRange ∨
        i ∉ [Instr.encode, .decode, .csum] ∧ c = .illegalCmd) := by
  cases h with
  | nop => exact absurd rfl hi
  | encoded | summed | decoded => exact .inl ⟨by simp, rfl⟩
  | badSize | badCsum | badVersion => exact .inr ⟨_, rfl, .inl ⟨rfl, by simp⟩⟩
  | encodeRange | csumRange => exact .inr ⟨_, rfl, .inr (.inl ⟨by simp, rfl⟩)⟩
  | illegal hr => exact .inr ⟨_, rfl, .inr (.inr ⟨fun hm => hr (List.mem_cons_of_mem _ hm), rfl⟩)⟩

end CommandEffect

/-- The reserved bits of an assembled STATUS word are 0 (R18). -/
theorem statusWord_reserved (op cause : BitVec 4) (valid err : Bool) :
    statusWord op cause valid err &&& 0xFFFFF00C#32 = 0#32 := by
  cases valid <;> cases err <;> revert op cause <;> decide +kernel

/-- Settles O18. -/
theorem engineNeverWritesHostRegisters : Obligations.EngineNeverWritesHostRegisters :=
  fun _ _ _ h => (exec_effect h).host_fields

/-- Settles O22: the fields of the success word and of the error word read back. -/
theorem statusAfterACommand : Obligations.StatusAfterACommand := by
  intro i s t hi h
  obtain ⟨hmem, hst⟩ | ⟨c, hst, hcause⟩ := (exec_effect h).status_cases hi
  · obtain ⟨hop, hca, hva, her⟩ := statusWord_fields (opcode i) (causeCode .none) (decide (i = .decode)) false
    rw [hst, successStatus]
    exact ⟨statusWord_reserved _ _ _ _, hop, .inl ⟨her, hca, by rw [hva, decide_eq_true_iff], hmem⟩⟩
  · obtain ⟨hop, hca, hva, her⟩ := statusWord_fields (opcode i) (causeCode c) false true
    rw [hst, errorStatus, hca]
    refine ⟨statusWord_reserved _ _ _ _, hop, .inr ⟨her, hva, ?_⟩⟩
    obtain ⟨hd, hc⟩ | ⟨he, rfl⟩ | ⟨hr, rfl⟩ := hcause
    · exact .inl ⟨hd, List.mem_map_of_mem (f := causeCode) hc⟩
    · exact .inr (.inl ⟨he, rfl⟩)
    · exact .inr (.inr ⟨hr, rfl⟩)

section StatusUnread
variable (s : State) (x : Word)

/-- `raise CmdError` rewrites STATUS in full (R97). -/
theorem raiseCmdError_withStatus (op : BitVec 4) (c : Cause) :
    raiseCmdError op c { s with status := x } = raiseCmdError op c s := by
  unfold raiseCmdError; split <;> rfl

theorem runEncode_withStatus : runEncode hw { s with status := x } = runEncode hw s := by
  simp only [runEncode, raiseCmdError_withStatus]

theorem runCsum_withStatus : runCsum hw { s with status := x } = runCsum hw s := by
  simp only [runCsum, raiseCmdError_withStatus]

theorem runDecode_withStatus : runDecode hw { s with status := x } = runDecode hw s := by
  simp only [runDecode, decodeVerified, raiseCmdError_decode]

end StatusUnread

/-- Settles O23. -/
theorem noCommandReadsStatus : Obligations.NoCommandReadsStatus := by
  intro i s x hi
  by_cases hr : i ∈ [Instr.encode, .decode, .csum]
  · obtain rfl | rfl | rfl : i = .encode ∨ i = .decode ∨ i = .csum := by simpa using hr
    · rw [exec_encode, exec_encode, runEncode_withStatus]
    · rw [exec_decode, exec_decode, runDecode_withStatus]
    · rw [exec_csum, exec_csum, runCsum_withStatus]
  · have hres : i ∉ [Instr.nop, .encode, .decode, .csum] := fun h => (List.mem_cons.1 h).elim hi hr
    rw [exec_reserved _ hres, exec_reserved _ hres, runReserved, runReserved, raiseCmdError_withStatus]

end Sys2Proof.Machine

end

section
/-! ### Scope: host writes to the registers (R16, R20, R22, R24, R39), and what a step can change (R25 to R29, R33) -/

namespace Sys2Proof.Machine

/-- The reserved bits of the four registers that have them, and the forced VER of TX_HDR (R16). -/
theorem reservedOk_iff (s : State) :
    reservedOk s = true ↔ s.txHdr &&& 0xC000C0C0#32 = 0x40000000#32 ∧ s.csum &&& 0xFFFF0000#32 = 0#32 ∧
      s.rxSize &&& 0xFFFF0000#32 = 0#32 ∧ s.csLen &&& 0xFFFF0000#32 = 0#32 := by
  simp [reservedOk, and_assoc]

section HostWrite
variable {s : State} (v : Word)

/-- TX_HDR after a host write, where its kept bits hold VER = 1 and zeros (R20). -/
theorem hostWriteReg_txHdr (h : s.txHdr &&& 0xC000C0C0#32 = 0x40000000#32) :
    hostWriteReg hw s .txHdr v = { s with txHdr := (v &&& 0x3FFF3F3F#32) ||| 0x40000000#32 } := by
  have hkept : s.txHdr &&& ~~~0x3FFF3F3F#32 = 0x40000000#32 := h
  simp only [hostWriteReg, setReg, readReg, writeMask_hw, writeSet_hw, hkept]
  rw [BitVec.or_comm 0x40000000#32, BitVec.or_assoc, BitVec.or_self]

/-- RX_SIZE after a host write, where its reserved bits are 0 (R22). -/
theorem hostWriteReg_rxSize (h : s.rxSize &&& 0xFFFF0000#32 = 0#32) :
    hostWriteReg hw s .rxSize v = { s with rxSize := v &&& 0x0000FFFF#32 } := by
  have hkept : s.rxSize &&& ~~~0x0000FFFF#32 = 0#32 := h
  simp only [hostWriteReg, setReg, readReg, writeMask_hw, writeSet_hw, hkept, BitVec.zero_or, BitVec.or_zero]

/-- CS_LEN after a host write, where its reserved bits are 0 (R24). -/
theorem hostWriteReg_csLen (h : s.csLen &&& 0xFFFF0000#32 = 0#32) :
    hostWriteReg hw s .csLen v = { s with csLen := v &&& 0x0000FFFF#32 } := by
  have hkept : s.csLen &&& ~~~0x0000FFFF#32 = 0#32 := h
  simp only [hostWriteReg, setReg, readReg, writeMask_hw, writeSet_hw, hkept, BitVec.zero_or, BitVec.or_zero]

/-- A step on a Write32 to a register other than CMD is the masked write, answered `Ok` (R39). -/
theorem step_of_registerWrite {r : Reg} {later : List HostInput} (hr : r ≠ .cmd)
    (hp : s.pending = .access (.write32 (regOffset r) v) :: later) :
    step s = .next ((hostWriteReg hw { s with pending := later } r v).respond .ok) := by
  have hw32 : commandWord (.write32 (regOffset r) v) = none := by simp [commandWord, hr]
  rw [step_of_pending_access hp, transact, hw32]
  simp [access, write32]

end HostWrite

section WrittenHeader
variable (v : Word) (start len : Nat)

/-- A field of the value TX_HDR gets from a host write: the mask selects it from `v`, the forced bits are added. -/
theorem txHdrWritten_field :
    ((v &&& 0x3FFF3F3F#32) ||| 0x40000000#32).extractLsb' start len =
      (v.extractLsb' start len &&& (0x3FFF3F3F#32).extractLsb' start len) |||
        (0x40000000#32).extractLsb' start len := by
  rw [BitVec.extractLsb'_or, BitVec.extractLsb'_and]

/-- A field that the mask holds whole and the forced bits do not touch is `v`'s own. -/
theorem txHdrWritten_field_toNat (hm : (0x3FFF3F3F#32).extractLsb' start len = BitVec.allOnes len)
    (hf : (0x40000000#32).extractLsb' start len = 0#len) :
    (((v &&& 0x3FFF3F3F#32) ||| 0x40000000#32).extractLsb' start len).toNat = v.toNat / 2 ^ start % 2 ^ len := by
  rw [txHdrWritten_field, hm, hf, BitVec.and_allOnes, BitVec.or_zero, BitVec.extractLsb'_toNat,
    Nat.shiftRight_eq_div_pow]

/-- The bits of the value TX_HDR gets from a host write that no write can change (R20). -/
theorem txHdrWritten_kept : ((v &&& 0x3FFF3F3F#32) ||| 0x40000000#32) &&& 0xC000C0C0#32 = 0x40000000#32 := by
  rw [BitVec.and_or_distrib_right, BitVec.and_assoc]
  simp

end WrittenHeader

/-- Settles O13: the write is `hostWriteReg` on TX_HDR, and each field of the written value is `v`'s under the mask. -/
theorem txHdrWriteKeepsWritableBits : Obligations.TxHdrWriteKeepsWritableBits := by
  intro s v later hwf hp
  obtain ⟨-, -, -, hres, -, -⟩ := (State.wf_iff s).1 hwf
  obtain ⟨htx, -, -, -⟩ := (reservedOk_iff s).1 hres
  refine ⟨?step, ?ver, ?reserved, ?syn, ?fin, ?ack, ?len, ?seq, ?ackn⟩
  case step =>
    rw [step_of_registerWrite (r := .txHdr) v nofun hp, hostWriteReg_txHdr (s := { s with pending := later }) v htx]
    rfl
  case ver => rw [hdrVer, txHdrWritten_field]; simp
  case reserved => rw [BitVec.and_or_distrib_right, BitVec.and_assoc]; simp
  case syn => simp [hdrSyn]
  case fin => simp [hdrFin]
  case ack => simp [hdrAck]
  case len => exact txHdrWritten_field_toNat v 16 11 (by decide) (by decide)
  case seq => exact txHdrWritten_field_toNat v 8 6 (by decide) (by decide)
  case ackn => exact (txHdrWritten_field_toNat v 0 6 (by decide) (by decide)).trans (by simp)

/-- Settles O14: RX_SIZE and CS_LEN take the masked write; the other four addresses hold read-only registers. -/
theorem otherRegisterWrites : Obligations.OtherRegisterWrites := by
  intro s v later hwf
  obtain ⟨-, -, -, hres, -, -⟩ := (State.wf_iff s).1 hwf
  obtain ⟨-, -, hrx, hcs⟩ := (reservedOk_iff s).1 hres
  refine ⟨fun hp => ?_, fun hp => ?_, fun a ha hp => ?_⟩
  · rw [step_of_registerWrite (r := .rxSize) v nofun hp, hostWriteReg_rxSize (s := { s with pending := later }) v hrx]
    rfl
  · rw [step_of_registerWrite (r := .csLen) v nofun hp, hostWriteReg_csLen (s := { s with pending := later }) v hcs]
    rfl
  · obtain ⟨r, rfl, hcmd, hm, hset⟩ :
        ∃ r, a = regOffset r ∧ r ≠ .cmd ∧ writeMask hw r = 0#32 ∧ writeSet hw r = 0#32 := by
      obtain rfl | rfl | rfl | rfl : a = 0x004#13 ∨ a = 0x00C#13 ∨ a = 0x010#13 ∨ a = 0x01C#13 := by simpa using ha
      · exact ⟨.status, rfl, nofun, rfl, rfl⟩
      · exact ⟨.rxHdr, rfl, nofun, rfl, rfl⟩
      · exact ⟨.csum, rfl, nofun, rfl, rfl⟩
      · exact ⟨.plen, rfl, nofun, rfl, rfl⟩
    rw [step_of_registerWrite v hcmd hp, hostWriteReg_readOnly _ _ _ _ hm hset]
    rfl

/-- A plain access leaves every register as it was that has no writable and no forced bit (R39). -/
theorem readReg_access_readOnly {c : Config} {r : Reg} (s : State) (t : Transaction)
    (hm : writeMask c r = 0#32) (hset : writeSet c r = 0#32) : readReg (access c s t) r = readReg s r := by
  obtain h | ⟨_, _, -, -, h⟩ | ⟨_, _, -, -, h⟩ | ⟨_, v, q, -, -, h⟩ | ⟨_, v, i, -, -, h⟩ := access_cases c s t
  · rw [h, readReg_respond]
  · rw [h, readReg_respond]
  · rw [h, readReg_respond]
  · rw [h, readReg_respond]
    by_cases hq : r = q
    · subst hq
      rw [hostWriteReg_readOnly _ _ _ _ hm hset]
    · rw [hostWriteReg, readReg_setReg_of_ne _ _ _ hq]
  · rw [h, readReg_respond]
    cases r <;> rfl

/-- A plain access changes a frame byte only as a Write8 to its address (R37, R39). -/
theorem write8_of_access_read_ne {c : Config} {s : State} {t : Transaction} {i : Nat} (hwf : s.frame.wf = true)
    (hne : (access c s t).frame.read i ≠ s.frame.read i) :
    ∃ a v, t = .write8 a v ∧ frameIndex c a = some i := by
  obtain h | ⟨_, _, -, -, h⟩ | ⟨_, _, -, -, h⟩ | ⟨_, v, q, -, -, h⟩ | ⟨a, v, j, ht, hj, h⟩ := access_cases c s t
  · simp [h] at hne
  · simp [h] at hne
  · simp [h] at hne
  · simp [h, hostWriteReg] at hne
  · rw [h, respond_frame, Memory.read_write hwf] at hne
    by_cases hij : i = j
    · exact ⟨a, v, ht, hij ▸ hj⟩
    · exact absurd (if_neg hij) hne

/-- The LEN field of a header as a number (R19). -/
theorem hdrLen_toNat (h : Word) : (hdrLen h).toNat = h.toNat / 65536 % 2048 := by
  rw [hdrLen, BitVec.extractLsb'_toNat, Nat.shiftRight_eq_div_pow]

/-- ENCODE leaves the payload, and every byte past the frame, as it was (R78). -/
theorem encodedFrame_read_of_payload {s : State} {i : Nat} (hwf : s.frame.wf = true) (h6 : 6 ≤ i)
    (hi : i < 6 + (hdrLen s.txHdr).toNat ∨ 1446 ≤ i) : (encodedFrame s).read i = s.frame.read i := by
  rw [encodedFrame, Memory.read_write16 (assembleFrame_wf hw _ hwf), if_neg (by omega), if_neg (by omega),
    assembleFrame_read hw _ hwf, hw_headerLen, hw_frameLen]
  simp only [show ¬(i = 4 ∨ i = 5) by omega, show i ≠ 0 by omega, show i ≠ 1 by omega, show i ≠ 2 by omega,
    show i ≠ 3 by omega, if_false]
  exact if_neg (by omega)

/-- Settles O16: of all a step can do, only the reset input, a successful ENCODE and a Write8 reach the frame. -/
theorem frameChangesOnlyByWriteEncodeReset : Obligations.FrameChangesOnlyByWriteEncodeReset := by
  intro s t i hwf hs hne
  obtain ⟨-, rfl⟩ | ⟨later, hp, -⟩ | ⟨later, v, u, hp, he, rfl⟩ | ⟨later, tr, hp, -, rfl⟩ := step_cases hs
  · exact absurd rfl hne
  · exact .inl ⟨later, hp⟩
  · obtain ⟨hdec, hlen, hframe⟩ := (exec_effect he).encoded_of_frame_ne fun hf =>
      hne (congrArg (Memory.read · i) hf)
    rw [respond_frame, hframe] at hne
    have hout : i < 6 ∨ ¬(i < 6 + (hdrLen s.txHdr).toNat ∨ 1446 ≤ i) := by
      by_contra hin
      push Not at hin
      exact hne (encodedFrame_read_of_payload (s := { s with pending := later }) hwf hin.1 (by simpa using hin.2))
    have hlen : (hdrLen s.txHdr).toNat ≤ 1440 := hlen
    rw [hdrLen_toNat] at hout hlen
    exact .inr (.inr ⟨⟨v, later, hp, hdec⟩, hlen, by omega, by omega⟩)
  · obtain ⟨a, v, rfl, hi⟩ := write8_of_access_read_ne (s := { s with pending := later }) hwf hne
    obtain ⟨ha, hlt⟩ := (frameIndex_eq_some_iff hw a i).1 hi
    exact .inr (.inl ⟨hlt, a, v, later, hp, ha⟩)

/-- A register that no host write can change is changed only by the reset input or by a command (R25 to R27, R33). -/
theorem command_of_readReg_ne {s t : State} {r : Reg} (hs : step s = .next t) (hreset : ¬ ResetNext s)
    (hm : writeMask hw r = 0#32) (hset : writeSet hw r = 0#32) (hne : readReg t r ≠ readReg s r) :
    ∃ i later u, CommandNext s i ∧ CommandEffect { s with pending := later } i u ∧ readReg u r ≠ readReg s r := by
  obtain ⟨-, rfl⟩ | ⟨later, hp, -⟩ | ⟨later, v, u, hp, he, rfl⟩ | ⟨later, tr, hp, -, rfl⟩ := step_cases hs
  · exact absurd rfl hne
  · exact absurd ⟨later, hp⟩ hreset
  · rw [readReg_respond] at hne
    exact ⟨decode v, later, u, ⟨v, later, hp, rfl⟩, exec_effect he, hne⟩
  · rw [readReg_access_readOnly _ _ hm hset] at hne
    exact absurd (by cases r <;> rfl) hne

/-- Settles O17: each change comes from a command, and each command's effect says which registers it writes. -/
theorem readOnlyRegistersChangeOnlyByCommands : Obligations.ReadOnlyRegistersChangeOnlyByCommands := by
  intro s t hs hreset
  refine ⟨fun hne => ?status, fun hne => ?rxHdr, fun hne => ?plen, fun hne => ?csum⟩
  case status =>
    obtain ⟨i, _, _, hi, he, hne⟩ := command_of_readReg_ne (r := .status) hs hreset rfl rfl hne
    exact ⟨i, he.ne_nop_of_status_ne hne, hi⟩
  case rxHdr =>
    obtain ⟨i, _, _, hi, he, hne⟩ := command_of_readReg_ne (r := .rxHdr) hs hreset rfl rfl hne
    exact he.decode_of_outputs_ne (.inl hne) ▸ hi
  case plen =>
    obtain ⟨i, _, _, hi, he, hne⟩ := command_of_readReg_ne (r := .plen) hs hreset rfl rfl hne
    exact he.decode_of_outputs_ne (.inr hne) ▸ hi
  case csum =>
    obtain ⟨i, _, _, hi, he, hne⟩ := command_of_readReg_ne (r := .csum) hs hreset rfl rfl hne
    obtain rfl | rfl | rfl := he.checksums_of_csum_ne hne
    · exact .inl hi
    · exact .inr (.inl hi)
    · exact .inr (.inr hi)

/-- A step whose next input is reset takes the reset input (R109). -/
theorem step_of_pending_reset {s : State} {later : List HostInput} (hp : s.pending = .reset :: later) :
    step s = .next (resetInput later) := by
  rw [step, takeInput, hp]

/-- Settles O6. -/
theorem resetInputRestoresReset : Obligations.ResetInputRestoresReset :=
  fun _ _ hp => step_of_pending_reset hp

/-- Settles O7: the registers by definition, the frame bytes because nothing is listed. -/
theorem resetValues : Obligations.ResetValues :=
  ⟨rfl, rfl, rfl, rfl, rfl, rfl, rfl, rfl, fun i _ => Memory.read_nil i⟩

end Sys2Proof.Machine

end

section
/-! ### Scope: the invariant of the block (R15, R16, R18, R19, R28, R33, R97, R99) is kept by every step -/

namespace Sys2Proof.Machine

/-- The STATUS words that say something of the registers beside them: those of DECODE (R18, R97, R99). -/
def outputStatuses : List Word := [0x202#32, 0x211#32, 0x221#32, 0x231#32]

section InvariantParts
variable {s : State}

/-- The two ends of the host port are no part of the invariant. -/
theorem wf_withPending (later : List HostInput) : ({ s with pending := later } : State).wf = s.wf := rfl

@[simp] theorem wf_respond (r : Response) : (s.respond r).wf = s.wf := rfl

theorem wf_resetInput (later : List HostInput) : (resetInput later).wf = true := State.reset_wf

/-- A STATUS word that no DECODE writes describes any registers (R18, R99). -/
theorem statusDescribes_of_not_mem (h : s.status ∉ outputStatuses) :
    statusDescribes s = true := by
  simp only [outputStatuses, List.mem_cons, List.not_mem_nil, or_false, not_or] at h
  simp [statusDescribes, h]

/-- A 16-bit result in a register leaves its reserved bits 0 (R26). -/
theorem setWidth_and_reserved (h : Half) : h.setWidth 32 &&& 0xFFFF0000#32 = 0#32 := by
  rw [show h.setWidth 32 = 0#16 ++ h from BitVec.setWidth_eq_append (by decide),
    show 0xFFFF0000#32 = BitVec.allOnes 16 ++ 0#16 from rfl, BitVec.and_append, BitVec.zero_and, BitVec.and_zero]
  rfl

/-- The low half of a word has the reserved bits of RX_SIZE and CS_LEN 0 (R22, R24). -/
theorem and_low_and_reserved (v : Word) : v &&& 0x0000FFFF#32 &&& 0xFFFF0000#32 = 0#32 := by
  rw [BitVec.and_assoc]
  exact BitVec.and_zero

/-- A 16-bit result is 0 in a register only if it is 0. -/
theorem setWidth_ne_zero {h : Half} (hne : h ≠ 0#16) : h.setWidth 32 ≠ 0#32 := by
  bv_omega

/-- A command that leaves the decoder's outputs alone keeps the invariant: the frame stays canonical and in its bounds,
CSUM is a 16-bit value, and STATUS is a legal word that says nothing of the outputs. -/
theorem wf_of_engine_update (hwf : s.wf = true) {m : Memory} {c w : Word} (hm : m.wf = true)
    (hin : m.within 1446 = true) (hc : c &&& 0xFFFF0000#32 = 0#32) (hlegal : legalStatus w = true)
    (hsilent : w ∉ outputStatuses) :
    ({ s with frame := m, csum := c, status := w } : State).wf = true := by
  obtain ⟨-, -, -, hres, hout, -⟩ := (State.wf_iff s).1 hwf
  obtain ⟨htx, -, hrx, hcs⟩ := (reservedOk_iff s).1 hres
  exact (State.wf_iff _).2
    ⟨hm, hin, hlegal, (reservedOk_iff _).2 ⟨htx, hc, hrx, hcs⟩, hout, statusDescribes_of_not_mem hsilent⟩

/-- A command that fails without touching more than STATUS keeps the invariant. -/
theorem wf_of_status_update (hwf : s.wf = true) {w : Word} (hlegal : legalStatus w = true)
    (hsilent : w ∉ outputStatuses) : ({ s with status := w } : State).wf = true := by
  obtain ⟨hm, hin, -, hres, -, -⟩ := (State.wf_iff s).1 hwf
  obtain ⟨-, hc, -, -⟩ := (reservedOk_iff s).1 hres
  exact wf_of_engine_update hwf hm hin hc hlegal hsilent

/-- A failing DECODE keeps the invariant: its outputs are cleared, and CSUM is non-zero after BAD_CSUM and 0 after
BAD_VERSION (R97, R99). -/
theorem wf_of_decode_failure (hwf : s.wf = true) {c w : Word} (hc : c &&& 0xFFFF0000#32 = 0#32)
    (hfail : w ∈ [0x211#32, 0x221#32, 0x231#32]) (hsum : w = 0x221#32 → c ≠ 0#32) (hver : w = 0x231#32 → c = 0#32) :
    ({ s with csum := c, rxHdr := 0#32, plen := 0#32, status := w } : State).wf = true := by
  obtain ⟨hm, hin, -, hres, -, -⟩ := (State.wf_iff s).1 hwf
  obtain ⟨htx, -, hrx, hcs⟩ := (reservedOk_iff s).1 hres
  have hcases : w = 0x211#32 ∨ w = 0x221#32 ∨ w = 0x231#32 := by simpa using hfail
  refine (State.wf_iff _).2 ⟨hm, hin, ?legal, (reservedOk_iff _).2 ⟨htx, hc, hrx, hcs⟩, ?outputs, ?describes⟩
  case legal => obtain rfl | rfl | rfl := hcases <;> rfl
  case outputs => simp [decoderOutputsOk, hdrLen]
  case describes =>
    obtain rfl | rfl | rfl := hcases
    · rfl
    · simpa [statusDescribes] using hsum rfl
    · simpa [statusDescribes] using hver rfl

/-- A successful DECODE keeps the invariant: RX_HDR holds a header of version 1, PLEN its clamped LEN, CSUM 0 (R27, R28,
R99). -/
theorem wf_of_decode_success (hwf : s.wf = true) {h p : Word} (hver : hdrVer h = 1#2)
    (hp : p = BitVec.ofNat 32 (min (hdrLen h).toNat 1440)) :
    ({ s with csum := 0#32, rxHdr := h, plen := p, status := 0x202#32 } : State).wf = true := by
  obtain ⟨hm, hin, -, hres, -, -⟩ := (State.wf_iff s).1 hwf
  obtain ⟨htx, -, hrx, hcs⟩ := (reservedOk_iff s).1 hres
  refine (State.wf_iff _).2
    ⟨hm, hin, rfl, (reservedOk_iff _).2 ⟨htx, BitVec.zero_and, hrx, hcs⟩, ?outputs, ?describes⟩
  case outputs => simp [decoderOutputsOk, hver, hp]
  case describes => simp [statusDescribes, hver]

end InvariantParts

/-- The STATUS of a reserved code is one of the legal words, and none of DECODE's (R92). -/
theorem illegalStatus_legal {i : Instr} (hi : i ∉ [Instr.nop, .encode, .decode, .csum]) :
    legalStatus (errorStatus (opcode i) .illegalCmd) = true ∧
      errorStatus (opcode i) .illegalCmd ∉ outputStatuses := by
  revert hi; cases i <;> decide

section EncodedFrame
variable {s : State}

theorem encodedFrame_wf (h : s.frame.wf = true) : (encodedFrame s).wf = true :=
  Memory.write16_wf (assembleFrame_wf hw _ h) _ _

theorem encodedFrame_within (h : s.frame.within 1446 = true) : (encodedFrame s).within 1446 = true :=
  Memory.write16_within (assembleFrame_within hw _ (by decide) h) (by decide) _

end EncodedFrame

section ReceivedHeader
variable (m : Memory) (a : Nat)

/-- The header register and Word0 read the same first two frame bytes (R25, R60). -/
theorem read32_eq_read16_append :
    m.read32 a = m.read16 a ++ (m.read (a + 2) ++ m.read (a + 3)) := by
  rw [Memory.read32, Memory.read16, BitVec.append_assoc]
  rfl

/-- VER of the received header is VERSION of Word0 (R25, R60). -/
theorem hdrVer_read32 : hdrVer (m.read32 a) = w0Version (m.read16 a) := by
  rw [hdrVer, read32_eq_read16_append, BitVec.extractLsb'_append_eq_of_le (by decide)]
  rfl

/-- LEN of the received header is LENGTH of Word0 (R25, R60). -/
theorem hdrLen_read32 : hdrLen (m.read32 a) = w0Len (m.read16 a) := by
  rw [hdrLen, read32_eq_read16_append, BitVec.extractLsb'_append_eq_of_le (by decide)]
  rfl

end ReceivedHeader

/-- Every command keeps the invariant. -/
theorem CommandEffect.wf {s t : State} {i : Instr} (h : CommandEffect s i t) (hwf : s.wf = true) : t.wf = true := by
  obtain ⟨hm, hin, -, hres, -, -⟩ := (State.wf_iff s).1 hwf
  obtain ⟨-, hcsum, -, -⟩ := (reservedOk_iff s).1 hres
  cases h with
  | nop => exact hwf
  | encoded =>
    exact wf_of_engine_update hwf (encodedFrame_wf hm) (encodedFrame_within hin) (setWidth_and_reserved _)
      (by decide) (by decide)
  | summed => exact wf_of_engine_update hwf hm hin (setWidth_and_reserved _) (by decide) (by decide)
  | encodeRange | csumRange => exact wf_of_status_update hwf (by decide) (by decide)
  | illegal hi =>
    obtain ⟨hlegal, hsilent⟩ := illegalStatus_legal hi
    exact wf_of_status_update hwf hlegal hsilent
  | decoded _ _ hver =>
    exact wf_of_decode_success hwf ((hdrVer_read32 _ _).trans hver) (by rw [deliveredLen, hdrLen_read32]; rfl)
  | badSize => exact wf_of_decode_failure hwf hcsum (by decide) (absurd · (by decide)) (absurd · (by decide))
  | badCsum _ hsum =>
    exact wf_of_decode_failure hwf (setWidth_and_reserved _) (by decide) (fun _ => setWidth_ne_zero hsum)
      (absurd · (by decide))
  | badVersion =>
    exact wf_of_decode_failure hwf BitVec.zero_and (by decide) (absurd · (by decide)) (fun _ => rfl)

/-- A host write to a register keeps the invariant (R16, R20, R39). -/
theorem hostWriteReg_wf {s : State} (hwf : s.wf = true) (r : Reg) (v : Word) :
    (hostWriteReg hw s r v).wf = true := by
  obtain ⟨hm, hin, hst, hres, hout, hdesc⟩ := (State.wf_iff s).1 hwf
  obtain ⟨htx, hc, hrx, hcs⟩ := (reservedOk_iff s).1 hres
  cases r with
  | cmd | status | rxHdr | csum | plen => rwa [hostWriteReg_readOnly _ _ _ _ rfl rfl]
  | txHdr =>
    rw [hostWriteReg_txHdr v htx]
    exact (State.wf_iff _).2
      ⟨hm, hin, hst, (reservedOk_iff _).2 ⟨txHdrWritten_kept v, hc, hrx, hcs⟩, hout, hdesc⟩
  | rxSize =>
    rw [hostWriteReg_rxSize v hrx]
    exact (State.wf_iff _).2
      ⟨hm, hin, hst, (reservedOk_iff _).2 ⟨htx, hc, and_low_and_reserved v, hcs⟩, hout, hdesc⟩
  | csLen =>
    rw [hostWriteReg_csLen v hcs]
    exact (State.wf_iff _).2
      ⟨hm, hin, hst, (reservedOk_iff _).2 ⟨htx, hc, hrx, and_low_and_reserved v⟩, hout, hdesc⟩

/-- A plain access keeps the invariant: a Write8 stays inside the frame (R37, R39). -/
theorem access_wf {s : State} (hwf : s.wf = true) (t : Transaction) : (access hw s t).wf = true := by
  obtain h | ⟨_, _, -, -, h⟩ | ⟨_, _, -, -, h⟩ | ⟨_, v, r, -, -, h⟩ | ⟨a, v, i, -, hi, h⟩ := access_cases hw s t
  · rwa [h, wf_respond]
  · rwa [h, wf_respond]
  · rwa [h, wf_respond]
  · rw [h, wf_respond]
    exact hostWriteReg_wf hwf r v
  · rw [h, wf_respond]
    obtain ⟨hm, hin, hrest⟩ := (State.wf_iff s).1 hwf
    obtain ⟨-, hlt⟩ := (frameIndex_eq_some_iff hw a i).1 hi
    exact (State.wf_iff _).2 ⟨Memory.write_wf hm i v, Memory.write_within hin hlt v, hrest⟩

/-- Settles O45: idling and reset are immediate, a command and a plain access each keep the invariant. -/
theorem everyStepKeepsStateWellFormed : Obligations.EveryStepKeepsStateWellFormed := by
  intro s t hwf hs
  obtain ⟨-, rfl⟩ | ⟨later, -, rfl⟩ | ⟨later, v, u, -, he, rfl⟩ | ⟨later, tr, -, -, rfl⟩ := step_cases hs
  · exact hwf
  · exact wf_resetInput later
  · rw [wf_respond]
    exact (exec_effect he).wf ((wf_withPending later).trans hwf)
  · exact access_wf ((wf_withPending later).trans hwf) tr

end Sys2Proof.Machine

end

section
/-! ### Scope: plain accesses of the port (R37 to R40, R44), and the register image of the frame's header (R42) -/

namespace Sys2Proof.Machine

section PlainAccess
variable {s : State} {t : Transaction} {a : Addr} {later : List HostInput}

/-- A step on a transaction that carries no command word is one plain access (R12, R39). -/
theorem step_of_plainAccess (hp : s.pending = .access t :: later) (hc : commandWord t = none) :
    step s = .next (access hw { s with pending := later } t) := by
  rw [step_of_pending_access hp, transact, hc]

/-- A transaction the port refuses is no CMD write: CMD is at an aligned address of the register window (R17, R38). -/
theorem commandWord_eq_none_of_refused (h : portAccepts t = false) : commandWord t = none := by
  rw [Option.eq_none_iff_forall_ne_some]
  intro v hv
  rw [(commandWord_eq_some_iff t v).1 hv] at h
  exact Bool.noConfusion h

/-- An address that holds a register is an aligned one of the register window (R36, R38). -/
theorem aligned_of_regAt_eq_some {r : Reg} (h : regAt a = some r) : a.toNat < 0x20 ∧ a.toNat % 4 = 0 :=
  (regAt_isSome_iff a).1 (Option.isSome_of_eq_some h)

/-- An address that has a frame index lies in the window 0x1000-0x15A5 (R36, R37). -/
theorem window_of_frameIndex_hw_eq_some {i : Nat} (h : frameIndex hw a = some i) :
    0x1000 ≤ a.toNat ∧ a.toNat ≤ 0x15A5 := by
  rw [frameIndex_eq_some_iff, hw_frameLen] at h
  omega

/-- A refused access changes nothing but the response (R40): of all a plain access can do, every other case is at an
address and width the port accepts. -/
theorem access_eq_busError_of_refused (s : State) (h : portAccepts t = false) :
    access hw s t = s.respond .busError := by
  have hno : ¬ portAccepts t = true := Bool.eq_false_iff.1 h
  obtain he | ⟨a, r, rfl, hr, -⟩ | ⟨a, i, rfl, hi, -⟩ | ⟨a, v, r, rfl, hr, -⟩ | ⟨a, v, i, rfl, hi, -⟩ :=
    access_cases hw s t
  · exact he
  · exact absurd (decide_eq_true (aligned_of_regAt_eq_some hr)) hno
  · exact absurd (decide_eq_true (window_of_frameIndex_hw_eq_some hi)) hno
  · exact absurd (decide_eq_true (aligned_of_regAt_eq_some hr)) hno
  · exact absurd (decide_eq_true (window_of_frameIndex_hw_eq_some hi)) hno

/-- No register holds the host's inputs (R16). -/
theorem readReg_withPending (s : State) (later : List HostInput) (r : Reg) :
    readReg { s with pending := later } r = readReg s r := by
  cases r <;> rfl

/-- A Read32 of a register answers its value (R39). -/
theorem access_read32_regOffset (c : Config) (s : State) (r : Reg) :
    access c s (.read32 (regOffset r)) = s.respond (.data32 (readReg s r)) := by
  rw [access, read32, regAt_regOffset]

/-- A Read8 in the frame window answers the frame byte (R37, R39). -/
theorem access_read8_of_window (s : State) (h : 0x1000 ≤ a.toNat ∧ a.toNat ≤ 0x15A5) :
    access hw s (.read8 a) = s.respond (.data8 (s.frame.read (a.toNat - 0x1000))) := by
  rw [access, read8, frameIndex_hw_of_window h]

/-- A Write8 in the frame window writes the frame byte and answers `Ok` (R37, R39). -/
theorem access_write8_of_window (s : State) (v : Byte) (h : 0x1000 ≤ a.toNat ∧ a.toNat ≤ 0x15A5) :
    access hw s (.write8 a v) = ({ s with frame := s.frame.write (a.toNat - 0x1000) v }).respond .ok := by
  rw [access, write8, frameIndex_hw_of_window h]

/-- A Write8 changes no register, whatever its address: it writes the frame or is refused (R39, R40, R42). -/
theorem readReg_access_write8 (c : Config) (s : State) (a : Addr) (v : Byte) (r : Reg) :
    readReg (access c s (.write8 a v)) r = readReg s r := by
  rw [access, write8]
  split
  · rw [readReg_respond]
    cases r <;> rfl
  · rw [readReg_respond]

end PlainAccess

/-- Settles O10: a refused transaction is a plain access, and that access only answers `BusError`. -/
theorem refusedTransactionsChangeNothing : Obligations.RefusedTransactionsChangeNothing := by
  intro s t later hp h
  rw [step_of_plainAccess hp (commandWord_eq_none_of_refused h), access_eq_busError_of_refused _ h, State.respond]

/-- Settles O12: each read is a plain access that only answers its value. -/
theorem readsHaveNoSideEffect : Obligations.ReadsHaveNoSideEffect := by
  intro s later
  constructor
  · intro r hp
    rw [step_of_plainAccess hp rfl, access_read32_regOffset, readReg_withPending, State.respond]
  · intro a hlo hhi hp
    rw [step_of_plainAccess hp rfl, access_read8_of_window _ ⟨hlo, hhi⟩, State.respond]

/-- Settles O15: the new buffer is the old one with the byte written, and the laws of `Memory.write` say the rest. -/
theorem frameWindowWriteSetsOneByte : Obligations.FrameWindowWriteSetsOneByte := by
  intro s a v later hwf hlo hhi hp
  refine ⟨s.frame.write (a.toNat - 0x1000) v, ?step, Memory.write_wf hwf _ _, ?same, fun i hi => ?other⟩
  case step => rw [step_of_plainAccess hp rfl, access_write8_of_window _ _ ⟨hlo, hhi⟩, State.respond]
  case same => rw [Memory.read_write hwf, if_pos rfl]
  case other => rw [Memory.read_write hwf, if_neg hi]

section HeaderImage
variable {s t : State}

/-- A command that ended with an error has ERR set (R97). -/
theorem statusErr_errorStatus (op : BitVec 4) (c : Cause) : statusErr (errorStatus op c) = true := by
  obtain ⟨-, -, -, herr⟩ := statusWord_fields op (causeCode c) false true
  exact herr

/-- An ENCODE that ends without an error leaves the encoded frame (R77, R82). -/
theorem CommandEffect.frame_of_encode (h : CommandEffect s .encode t) (hok : statusErr t.status = false) :
    t.frame = encodedFrame s := by
  cases h with
  | encoded => rfl
  | encodeRange => simp [statusErr_errorStatus] at hok
  | illegal hi => simp at hi

/-- A DECODE that ends without an error leaves the first four frame bytes in RX_HDR (R25, R87). -/
theorem CommandEffect.rxHdr_of_decode (h : CommandEffect s .decode t) (hok : statusErr t.status = false) :
    t.rxHdr = t.frame.read32 0 := by
  cases h with
  | decoded => rfl
  | badSize | badCsum | badVersion => simp [statusErr_errorStatus] at hok
  | illegal hi => simp at hi

/-- The header bytes of the encoded frame are TX_HDR's, high byte first (R64, R77). -/
theorem encodedFrame_read_header (hwf : s.frame.wf = true) :
    (encodedFrame s).read 0 = s.txHdr.extractLsb' 24 8 ∧ (encodedFrame s).read 1 = s.txHdr.extractLsb' 16 8 ∧
      (encodedFrame s).read 2 = s.txHdr.extractLsb' 8 8 ∧ (encodedFrame s).read 3 = s.txHdr.extractLsb' 0 8 := by
  simp [encodedFrame, Memory.read_write16 (assembleFrame_wf hw _ hwf), assembleFrame_read hw _ hwf]

/-- A word is its four bytes, high byte first (R11). -/
theorem append_bytes_eq (v : Word) :
    v.extractLsb' 24 8 ++ v.extractLsb' 16 8 ++ v.extractLsb' 8 8 ++ v.extractLsb' 0 8 = v := by
  rw [BitVec.extractLsb'_append_extractLsb'_eq_extractLsb' (by decide),
    BitVec.extractLsb'_append_extractLsb'_eq_extractLsb' (by decide),
    BitVec.extractLsb'_append_extractLsb'_eq_extractLsb' (by decide)]
  exact BitVec.extractLsb'_eq_self

/-- The four bytes of a word appended high byte first (R11). -/
theorem bytes_of_append (b0 b1 b2 b3 : Byte) :
    (b0 ++ b1 ++ b2 ++ b3).extractLsb' 24 8 = b0 ∧ (b0 ++ b1 ++ b2 ++ b3).extractLsb' 16 8 = b1 ∧
      (b0 ++ b1 ++ b2 ++ b3).extractLsb' 8 8 = b2 ∧ (b0 ++ b1 ++ b2 ++ b3).extractLsb' 0 8 = b3 := by
  refine ⟨?_, ?_, ?_, BitVec.extractLsb'_append_eq_right⟩
  · rw [BitVec.extractLsb'_append_eq_of_le (by decide), BitVec.extractLsb'_append_eq_of_le (by decide)]
    exact BitVec.extractLsb'_append_eq_left
  · rw [BitVec.extractLsb'_append_eq_of_le (by decide), BitVec.extractLsb'_append_eq_of_le (by decide)]
    exact BitVec.extractLsb'_append_eq_right
  · rw [BitVec.extractLsb'_append_eq_of_le (by decide)]
    exact BitVec.extractLsb'_append_eq_right

/-- The four bytes of a big-endian read are the bytes read (R10). -/
theorem read32_bytes (m : Memory) (a : Nat) :
    (m.read32 a).extractLsb' 24 8 = m.read a ∧ (m.read32 a).extractLsb' 16 8 = m.read (a + 1) ∧
      (m.read32 a).extractLsb' 8 8 = m.read (a + 2) ∧ (m.read32 a).extractLsb' 0 8 = m.read (a + 3) :=
  bytes_of_append _ _ _ _

end HeaderImage

/-- Settles O41: both commands' effects give the image, and a Write8 is a plain access that keeps every register. -/
theorem registerImageMatchesFrame : Obligations.RegisterImageMatchesFrame := by
  refine ⟨fun s t hwf he hok => ?encode, fun s t he hok => ?decode, fun s t a v later hp hs => ?write8⟩
  case encode =>
    obtain ⟨htx, -⟩ := (exec_effect he).host_fields
    obtain ⟨h0, h1, h2, h3⟩ := encodedFrame_read_header hwf
    rw [(exec_effect he).frame_of_encode hok, h0, h1, h2, h3, append_bytes_eq, htx]
  case decode =>
    obtain ⟨h0, h1, h2, h3⟩ := read32_bytes t.frame 0
    rw [(exec_effect he).rxHdr_of_decode hok]
    exact ⟨h0.symm, h1.symm, h2.symm, h3.symm⟩
  case write8 =>
    rw [step_of_plainAccess hp rfl] at hs
    cases hs
    exact ⟨readReg_access_write8 hw _ a v .rxHdr, readReg_access_write8 hw _ a v .txHdr⟩

end Sys2Proof.Machine

end

section
/-! ### Scope: the command word (R53 to R58): the opcode map's codes, and `decode` and `encode` as each other's inverses -/

namespace Sys2Proof

/-- The code of a command selects it (R56). -/
theorem commandOfOp_opcode (i : Instr) : commandOfOp (opcode i) = i := by
  cases i <;> rfl

/-- Each of the sixteen codes is the code of the command it selects (R56, R58). -/
theorem opcode_commandOfOp (op : BitVec 4) : opcode (commandOfOp op) = op := by
  revert op; decide

section CommandWord
variable (i : Instr) (v : Word)

/-- A 4-bit code as a command word: bits 31:4 are 0 (R54). -/
theorem setWidth_code_eq_append (op : BitVec 4) : op.setWidth 32 = 0#28 ++ op :=
  BitVec.setWidth_eq_append (by decide)

/-- OP of the word the encoder writes is the command's code (R54). -/
theorem encode_op : (encode i).extractLsb' 0 4 = opcode i := by
  rw [encode, setWidth_code_eq_append]
  exact BitVec.extractLsb'_append_eq_right

/-- OP of a word, as a command word, is that word with its ignored bits 31:4 cleared (R54). -/
theorem setWidth_op : (v.extractLsb' 0 4).setWidth 32 = v &&& 0x0000000F#32 := by
  have hsplit : v = v.extractLsb' 4 28 ++ v.extractLsb' 0 4 := by
    rw [BitVec.extractLsb'_append_extractLsb'_eq_extractLsb' (by decide)]
    exact BitVec.extractLsb'_eq_self.symm
  calc (v.extractLsb' 0 4).setWidth 32
      = 0#28 ++ v.extractLsb' 0 4 := setWidth_code_eq_append _
    _ = (v.extractLsb' 4 28 ++ v.extractLsb' 0 4) &&& (0#28 ++ BitVec.allOnes 4) := by
        rw [BitVec.and_append, BitVec.and_zero, BitVec.and_allOnes]
    _ = v &&& 0x0000000F#32 := by rw [← hsplit]; rfl

theorem decode_encode : decode (encode i) = i := by
  rw [decode, encode_op, commandOfOp_opcode]

theorem encode_decode : encode (decode v) = v &&& 0x0000000F#32 := by
  rw [encode, decode, opcode_commandOfOp, setWidth_op]

/-- A word whose bits 3:0 are those of a row of the opcode map decodes to the row's command (R56, R58): the encoder's word
of what it decodes to is the row's, and `encode` has `decode` as its inverse. -/
theorem decode_eq_of_row (h : v &&& 0x0000000F#32 = encode i) : decode v = i := by
  rw [← decode_encode (decode v), encode_decode, h, decode_encode]

end CommandWord

/-- Settles O3. -/
theorem decodeAndEncodeAgree : Obligations.DecodeAndEncodeAgree :=
  ⟨fun i _ => decode_encode i, encode_decode⟩

/-- Settles O2: each clause is the row of one command. -/
theorem decodeFollowsOpcodeMap : Obligations.DecodeFollowsOpcodeMap := fun v =>
  ⟨decode_eq_of_row .nop v, decode_eq_of_row .encode v, decode_eq_of_row .decode v, decode_eq_of_row .csum v,
    decode_eq_of_row .reserved4 v, decode_eq_of_row .reserved5 v, decode_eq_of_row .reserved6 v,
    decode_eq_of_row .reserved7 v, decode_eq_of_row .reserved8 v, decode_eq_of_row .reserved9 v,
    decode_eq_of_row .reservedA v, decode_eq_of_row .reservedB v, decode_eq_of_row .reservedC v,
    decode_eq_of_row .reservedD v, decode_eq_of_row .reservedE v, decode_eq_of_row .reservedF v⟩

/-- Settles O1: bits 3:0 of each word are those of its command's row. -/
theorem commandWordsDecode : Obligations.CommandWordsDecode :=
  ⟨decode_eq_of_row .nop _ rfl, decode_eq_of_row .nop _ rfl, decode_eq_of_row .encode _ rfl,
    decode_eq_of_row .encode _ rfl, decode_eq_of_row .decode _ rfl, decode_eq_of_row .csum _ rfl,
    decode_eq_of_row .reserved4 _ rfl, decode_eq_of_row .reserved7 _ rfl, decode_eq_of_row .reserved9 _ rfl,
    decode_eq_of_row .reservedF _ rfl⟩

end Sys2Proof

end

section
/-! ### Scope: when a command succeeds (R83 to R86, R92), and what ENCODE reads and writes (R57, R64, R78) -/

namespace Sys2Proof.Machine

/-- A reserved code fails with ILLEGAL_CMD and changes STATUS alone (R92). -/
theorem exec_reserved_illegal (s : State) (i : Instr) (hi : i ∉ [Instr.nop, .encode, .decode, .csum]) :
    exec i s = .next { s with status := errorStatus (opcode i) .illegalCmd } := by
  have hne : i ≠ .decode := by rintro rfl; simp at hi
  rw [exec_reserved s hi, runReserved, raiseCmdError_of_ne_decode hne]

/-- Settles O20: the error word of each code is its literal. -/
theorem reservedCodesFail : Obligations.ReservedCodesFail := fun s =>
  ⟨exec_reserved_illegal s .reserved4 (by decide), exec_reserved_illegal s .reserved5 (by decide),
    exec_reserved_illegal s .reserved6 (by decide), exec_reserved_illegal s .reserved7 (by decide),
    exec_reserved_illegal s .reserved8 (by decide), exec_reserved_illegal s .reserved9 (by decide),
    exec_reserved_illegal s .reservedA (by decide), exec_reserved_illegal s .reservedB (by decide),
    exec_reserved_illegal s .reservedC (by decide), exec_reserved_illegal s .reservedD (by decide),
    exec_reserved_illegal s .reservedE (by decide), exec_reserved_illegal s .reservedF (by decide)⟩

/-- `RX_SIZE.SIZE` as a number (R22). -/
theorem rxSizeSize_toNat (r : Word) : (rxSizeSize r).toNat = r.toNat % 65536 := by
  rw [rxSizeSize, BitVec.extractLsb'_toNat, Nat.shiftRight_zero]

/-- The verification result is the checksum of the 1446 bytes of the frame buffer (R76, R85). -/
theorem verification_hw (s : State) : verification hw s.frame = csum16 (frameBytes s 1446) := by
  rw [verification, hw_frameLen, frameBytes_eq_bytes]

/-- VERSION of Word0 is bits 7:6 of its first byte (R60, R66). -/
theorem w0Version_read16_eq_one_iff (m : Memory) (a : Nat) :
    w0Version (m.read16 a) = 1#2 ↔ (m.read a).toNat / 64 = 1 := by
  have hfield : w0Version (m.read16 a) = (m.read a).extractLsb' 6 2 :=
    BitVec.extractLsb'_append_eq_of_le (by decide)
  rw [hfield, ← BitVec.toNat_inj, BitVec.extractLsb'_toNat, Nat.shiftRight_eq_div_pow,
    Nat.mod_eq_of_lt (by have := (m.read a).isLt; omega)]
  rfl

/-- A command that succeeded has ERR clear (R33). -/
theorem statusErr_successStatus (op : BitVec 4) (valid : Bool) : statusErr (successStatus op valid) = false := by
  obtain ⟨-, -, -, herr⟩ := statusWord_fields op (causeCode .none) valid false
  exact herr

/-- DECODE ends without an error exactly when its three checks pass (R83 to R86). -/
theorem CommandEffect.decode_ok_iff {s t : State} (h : CommandEffect s .decode t) :
    statusErr t.status = false ↔ (rxSizeSize s.rxSize).toNat = 1446 ∧ verification hw s.frame = 0#16 ∧
      w0Version (s.frame.read16 0) = 1#2 := by
  cases h with
  | decoded hsize hsum hver => exact iff_of_true (statusErr_successStatus _ _) ⟨hsize, hsum, hver⟩
  | badSize hsize => simp [statusErr_errorStatus, hsize]
  | badCsum _ hsum => simp [statusErr_errorStatus, hsum]
  | badVersion _ _ hver => simp [statusErr_errorStatus, hver]
  | illegal hi => simp at hi

/-- Settles O39: the decoder's three checks, each in the words of the claim. -/
theorem decodeAcceptsExactlyValidFrames : Obligations.DecodeAcceptsExactlyValidFrames := by
  intro s t he
  rw [(exec_effect he).decode_ok_iff, rxSizeSize_toNat, verification_hw, w0Version_read16_eq_one_iff]

/-- ENCODE with LEN at most 1440 leaves the encoded frame and its checksum (R77). -/
theorem exec_encode_of_len_le {s : State} (hlen : (hdrLen s.txHdr).toNat ≤ 1440) :
    exec .encode s = .next { s with
      frame := encodedFrame s, csum := (encodedSum s).setWidth 32
      status := successStatus (opcode .encode) false } := by
  rw [exec_encode, runEncode, hw_maxPayloadLen, if_neg (Nat.not_lt.2 hlen)]
  rfl

section SamePayload

/-- Two states hold the same TX_HDR and the same payload bytes, in canonical buffers (R57). -/
structure SamePayload (s s' : State) : Prop where
  wf : s.frame.wf = true
  wf' : s'.frame.wf = true
  txHdr : s'.txHdr = s.txHdr
  payload : ∀ i, 6 ≤ i → i < 6 + (hdrLen s.txHdr).toNat → s.frame.read i = s'.frame.read i

variable {s s' : State}

/-- Inside the frame, the assembled frame depends on TX_HDR and the payload alone: every other byte is written (R78). -/
theorem SamePayload.assembleFrame_read (h : SamePayload s s') {i : Nat} (hi : i < 1446) :
    (assembleFrame hw s.frame s.txHdr).read i = (assembleFrame hw s'.frame s'.txHdr).read i := by
  rw [h.txHdr, Machine.assembleFrame_read hw _ h.wf, Machine.assembleFrame_read hw _ h.wf', hw_headerLen, hw_frameLen]
  split_ifs
  case neg => exact h.payload i (by omega) (by omega)
  all_goals rfl

/-- The checksum ENCODE computes depends on TX_HDR and the payload alone. -/
theorem SamePayload.encodedSum_eq (h : SamePayload s s') : encodedSum s = encodedSum s' := by
  rw [encodedSum, encodedSum, Memory.bytes_congr fun i hi => h.assembleFrame_read (by omega)]

/-- The frame ENCODE leaves depends on TX_HDR and the payload alone. -/
theorem SamePayload.encodedFrame_bytes (h : SamePayload s s') :
    (encodedFrame s).bytes 0 1446 = (encodedFrame s').bytes 0 1446 := by
  refine Memory.bytes_congr fun i hi => ?_
  rw [encodedFrame, encodedFrame, Memory.read_write16 (assembleFrame_wf hw _ h.wf),
    Memory.read_write16 (assembleFrame_wf hw _ h.wf'), h.encodedSum_eq, h.assembleFrame_read (by omega)]

end SamePayload

/-- Settles O35. -/
theorem encodeReadsOnlyHeaderAndPayload : Obligations.EncodeReadsOnlyHeaderAndPayload := by
  intro s s' t t' hwf hwf' htx hlen hpayload he he'
  rw [← hdrLen_toNat] at hlen hpayload
  have hsame : SamePayload s s' := ⟨hwf, hwf', htx.symm, hpayload⟩
  rw [exec_encode_of_len_le hlen] at he
  rw [exec_encode_of_len_le (htx ▸ hlen)] at he'
  cases he
  cases he'
  refine ⟨?frame, ?csum, rfl⟩
  case frame => rw [frameBytes_eq_bytes, frameBytes_eq_bytes]; exact hsame.encodedFrame_bytes
  case csum => exact congrArg (BitVec.setWidth 32) hsame.encodedSum_eq

section HeaderFields
variable {h : Word}

/-- A field of TX_HDR made of reserved bits alone holds what they read as (R19). -/
theorem txHdr_reserved_field (hres : h &&& 0xC000C0C0#32 = 0x40000000#32) (start len : Nat)
    (hm : (0xC000C0C0#32).extractLsb' start len = BitVec.allOnes len) :
    h.extractLsb' start len = (0x40000000#32).extractLsb' start len := by
  rw [← hres, BitVec.extractLsb'_and, hm, BitVec.and_allOnes]

/-- One bit of a word as a field of width 1. -/
theorem ofBool_getLsbD (h : Word) (n : Nat) : BitVec.ofBool (h.getLsbD n) = h.extractLsb' n 1 := by
  ext i hi
  obtain rfl : i = 0 := by omega
  simp

/-- The upper half of a header is its fields in order (R19, R64). -/
theorem assembleW0_fields (h : Word) :
    assembleW0 (hdrVer h) (hdrSyn h) (hdrFin h) (hdrAck h) (hdrLen h) =
      h.extractLsb' 24 8 ++ h.extractLsb' 16 8 := by
  rw [assembleW0, hdrVer, hdrSyn, hdrFin, hdrAck, hdrLen, ofBool_getLsbD, ofBool_getLsbD, ofBool_getLsbD,
    BitVec.extractLsb'_append_extractLsb'_eq_extractLsb' (by decide),
    BitVec.extractLsb'_append_extractLsb'_eq_extractLsb' (by decide),
    BitVec.extractLsb'_append_extractLsb'_eq_extractLsb' (by decide),
    BitVec.extractLsb'_append_extractLsb'_eq_extractLsb' (by decide),
    BitVec.extractLsb'_append_extractLsb'_eq_extractLsb' (by decide)]

/-- A byte of a header whose two high bits are 0 is its low six bits zero-extended (R64). -/
theorem byte_eq_setWidth_of_high_zero {start : Nat} (hz : h.extractLsb' (start + 6) 2 = 0#2) :
    h.extractLsb' start 8 = (h.extractLsb' start 6).setWidth 8 := by
  have hsplit : h.extractLsb' (start + 6) 2 ++ h.extractLsb' start 6 = h.extractLsb' start 8 :=
    BitVec.extractLsb'_append_extractLsb'_eq_extractLsb' rfl
  rw [← hsplit, hz]
  exact (BitVec.setWidth_eq_append (by decide)).symm

end HeaderFields

/-- Settles O42: the header bytes of the encoded frame are TX_HDR's, and its reserved bits are VERSION and the two zero
bits above each sequence number. -/
theorem headerIsAssembledFromFields : Obligations.HeaderIsAssembledFromFields := by
  intro s hwf hlen
  obtain ⟨hm, -, -, hres, -, -⟩ := (State.wf_iff s).1 hwf
  obtain ⟨htx, -, -, -⟩ := (reservedOk_iff s).1 hres
  obtain ⟨h0, h1, h2, h3⟩ := encodedFrame_read_header hm
  rw [← hdrLen_toNat] at hlen
  refine ⟨_, exec_encode_of_len_le hlen, ?word0, ?seq, ?ackn, ?image⟩
  case word0 =>
    have hver : hdrVer s.txHdr = 1#2 := txHdr_reserved_field htx 30 2 (by decide)
    rw [h0, h1, ← hver, assembleW0_fields]
  case seq => exact h2.trans (byte_eq_setWidth_of_high_zero (txHdr_reserved_field htx 14 2 (by decide)))
  case ackn => exact h3.trans (byte_eq_setWidth_of_high_zero (txHdr_reserved_field htx 6 2 (by decide)))
  case image => rw [h0, h1, h2, h3, append_bytes_eq]

end Sys2Proof.Machine

end

section
/-! ### Scope: the checksum function (R69 to R75): sums, folds, the CSUM command, error detection -/

namespace Sys2Proof.Machine

section WordSum
variable (b : List Byte)

/-- The exact sum is the sum of the words (R69). -/
theorem wordSum_eq_sum_wordsOf : wordSum b = (wordsOf b).sum := by
  induction b using wordSum.induct with
  | case1 => rfl
  | case2 x => simp [wordsOf]
  | case3 x y b ih => simp [wordsOf, ih]

/-- Two bytes make a word, an odd last byte one of its own (R69). -/
theorem length_wordsOf : (wordsOf b).length = (b.length + 1) / 2 := by
  induction b using wordSum.induct with
  | case1 => rfl
  | case2 x => simp [wordsOf]
  | case3 x y b ih => simp only [wordsOf, List.length_cons, ih]; omega

/-- A summed word is a 16-bit value. -/
theorem wordsOf_le : ∀ w ∈ wordsOf b, w ≤ 0xFFFF := by
  induction b using wordSum.induct with
  | case1 => simp [wordsOf]
  | case2 x => simp only [wordsOf, List.mem_singleton, forall_eq]; omega
  | case3 x y b ih =>
    refine List.forall_mem_cons.2 ⟨?_, ih⟩
    omega

/-- The sum is at most 0xFFFF for each word (R71). -/
theorem wordSum_le : wordSum b ≤ (b.length + 1) / 2 * 0xFFFF := by
  rw [wordSum_eq_sum_wordsOf, ← length_wordsOf, ← smul_eq_mul]
  exact List.sum_le_card_nsmul _ _ (wordsOf_le b)

variable {b}

/-- 32 bits hold the sum of every sequence R7 allows (R71). -/
theorem wordSum_lt (hb : b.length ≤ 131074) : wordSum b < 2 ^ 32 := by
  have := wordSum_le b
  omega

/-- A zero byte after a sequence of odd length is the low byte its last word has anyway (R70). -/
theorem wordSum_append_zero (hb : b.length % 2 = 1) : wordSum (b ++ [0#8]) = wordSum b := by
  induction b using wordSum.induct with
  | case1 => simp at hb
  | case2 x => simp
  | case3 x y b ih =>
    have hb : b.length % 2 = 1 := by simp only [List.length_cons] at hb; omega
    simp [ih hb]

/-- What a byte counts for in the sum: the high byte of a word, at an even index, 256 times its value (R69). -/
def byteWeight (i : Nat) : Nat := if i % 2 = 0 then 256 else 1

theorem byteWeight_add_two (i : Nat) : byteWeight (i + 2) = byteWeight i := by
  simp [byteWeight]

theorem byteWeight_bounds (i : Nat) : 0 < byteWeight i ∧ byteWeight i ≤ 256 := by
  unfold byteWeight; split <;> decide

/-- Replacing a byte exchanges what the old one counts for against what the new one counts for. -/
theorem wordSum_set {i : Nat} (hi : i < b.length) (x : Byte) :
    wordSum (b.set i x) + byteWeight i * b[i].toNat = wordSum b + byteWeight i * x.toNat := by
  induction b using wordSum.induct generalizing i with
  | case1 => simp at hi
  | case2 y =>
    obtain rfl : i = 0 := by simpa using hi
    simp [byteWeight]; omega
  | case3 y z b ih =>
    match i with
    | 0 => simp [byteWeight]; omega
    | 1 => simp [byteWeight]; omega
    | i + 2 =>
      have hi : i < b.length := by simpa using hi
      have ih := ih hi
      simp only [List.set_cons_succ, List.getElem_cons_succ, wordSum_cons_cons, byteWeight_add_two]
      omega

/-- A byte stored over a zero byte adds what it counts for. -/
theorem wordSum_set_of_zero {i : Nat} (hi : i < b.length) (hz : b[i] = 0#8) (x : Byte) :
    wordSum (b.set i x) = wordSum b + byteWeight i * x.toNat := by
  simpa [hz] using wordSum_set hi x

end WordSum

section WordLists
variable (ws : List Half)

/-- The value of a word from its two bytes, high byte first (R11). -/
theorem toNat_eq_bytes (w : Half) : (w.extractLsb' 8 8).toNat * 256 + (w.extractLsb' 0 8).toNat = w.toNat := by
  simp only [BitVec.extractLsb'_toNat, Nat.shiftRight_eq_div_pow]
  omega

/-- The bytes of a list of words sum to the words' values (R11, R69). -/
theorem wordSum_flatMap_wordBytes : wordSum (ws.flatMap wordBytes) = (ws.map BitVec.toNat).sum := by
  induction ws with
  | nil => rfl
  | cons w ws ih =>
    rw [List.flatMap_cons, wordBytes, List.cons_append, List.cons_append, List.nil_append, wordSum_cons_cons, ih,
      toNat_eq_bytes, List.map_cons, List.sum_cons]

theorem length_flatMap_wordBytes : (ws.flatMap wordBytes).length = ws.length * 2 := by
  simp [List.length_flatMap, wordBytes]

end WordLists

/-- `OnesComplement r n`: `r` is the 16-bit one's-complement value of `n`, its residue modulo 65535 in 0 .. 0xFFFF, with
0 kept for `n = 0` alone (R72 item 1). -/
structure OnesComplement (r n : Nat) : Prop where
  le : r ≤ 0xFFFF
  mod_eq : r % 65535 = n % 65535
  eq_zero_iff : r = 0 ↔ n = 0

namespace OnesComplement
variable {r r' n n' w : Nat}

/-- The value is determined by the residue, given whether the sum is zero (R72 item 1). -/
theorem unique (h : OnesComplement r n) (h' : OnesComplement r' n') (hz : n = 0 ↔ n' = 0)
    (hmod : n % 65535 = n' % 65535) : r = r' := by
  obtain ⟨hle, hr, hr0⟩ := h
  obtain ⟨hle', hr', hr0'⟩ := h'
  omega

/-- Two folds reach it, from any 32-bit sum (R71, R72 item 1). -/
theorem of_folds (hn : n < 2 ^ 32) : OnesComplement (fold16 (fold16 n)) n where
  le := by simp only [fold16_eq]; omega
  mod_eq := by rw [fold16_mod, fold16_mod]
  eq_zero_iff := by rw [fold16_eq_zero, fold16_eq_zero]

/-- Adding one word with end-around carry keeps it (R72 item 4). -/
theorem endAroundAdd (h : OnesComplement r n) (hw : w ≤ 0xFFFF) :
    OnesComplement (Machine.endAroundAdd r w) (n + w) := by
  obtain ⟨hle, hmod, hzero⟩ := h
  unfold Machine.endAroundAdd
  split
  next hcarry => exact ⟨by omega, by omega, by omega⟩
  next hcarry => exact ⟨by omega, by omega, by omega⟩

/-- The incremental sum of a list of words has it (R72 item 4). -/
theorem foldl_endAroundAdd (h : OnesComplement r n) {ws : List Nat} (hws : ∀ w ∈ ws, w ≤ 0xFFFF) :
    OnesComplement (ws.foldl Machine.endAroundAdd r) (n + ws.sum) := by
  induction ws generalizing r n with
  | nil => exact h
  | cons w ws ih =>
    obtain ⟨hw, hws⟩ := List.forall_mem_cons.1 hws
    rw [List.sum_cons, ← Nat.add_assoc]
    exact ih (h.endAroundAdd hw) hws

end OnesComplement

section Csum16
variable {b b' : List Byte}

/-- The checksum reads the sequence through its word sum alone (R69). -/
theorem csum16_congr (h : wordSum b = wordSum b') : csum16 b = csum16 b' := by
  rw [csum16, csum16, h]

/-- The complement of the checksum is the one's-complement value of the word sum (R69, R72). -/
theorem onesComplement_csum16 (hb : b.length ≤ 131074) :
    OnesComplement (0xFFFF - (csum16 b).toNat) (wordSum b) := by
  have h := OnesComplement.of_folds (wordSum_lt hb)
  have hc : 0xFFFF - (csum16 b).toNat = fold16 (fold16 (wordSum b)) := by
    have := h.le
    rw [csum16, BitVec.toNat_not, BitVec.toNat_ofNat]
    omega
  rwa [hc]

/-- Sums of the same residue modulo 65535, zero together or not at all, have the same checksum (R72 item 1). -/
theorem csum16_eq_of_residue (hb : b.length ≤ 131074) (hb' : b'.length ≤ 131074)
    (hz : wordSum b = 0 ↔ wordSum b' = 0) (hmod : wordSum b % 65535 = wordSum b' % 65535) :
    csum16 b = csum16 b' := by
  have := (onesComplement_csum16 hb).unique (onesComplement_csum16 hb') hz hmod
  bv_omega

/-- The checksum is 0xFFFF only of a zero sum (R72 item 2). -/
theorem csum16_eq_ones_iff (hb : b.length ≤ 131074) : csum16 b = 0xFFFF#16 ↔ wordSum b = 0 := by
  rw [← (onesComplement_csum16 hb).eq_zero_iff]
  bv_omega

/-- A sequence verifies exactly when its sum is a positive multiple of 65535 (R72 item 2). -/
theorem csum16_eq_zero_iff (hb : b.length ≤ 131074) :
    csum16 b = 0x0000#16 ↔ 0 < wordSum b ∧ wordSum b % 65535 = 0 := by
  obtain ⟨-, hmod, hzero⟩ := onesComplement_csum16 hb
  bv_omega

/-- A sum that differs from a verifying one by less than 65535 does not verify. -/
theorem csum16_ne_zero_of_near {d : Nat} (hb : b.length ≤ 131074) (hb' : b'.length ≤ 131074)
    (hd : 0 < d ∧ d < 65535) (hnear : wordSum b' = wordSum b + d ∨ wordSum b = wordSum b' + d)
    (h : csum16 b = 0x0000#16) : csum16 b' ≠ 0x0000#16 := by
  rw [csum16_eq_zero_iff hb] at h
  rw [Ne, csum16_eq_zero_iff hb']
  omega

end Csum16

/-- Settles O25: 723 words of at most 0xFFFF, and the folds of a 32-bit value as quotients and remainders. -/
theorem twoFoldsConverge : Obligations.TwoFoldsConverge := by
  refine ⟨fun b hb => ⟨?words, ?sum⟩, fun b hb => wordSum_lt hb,
    fun x hx => ⟨?first, fun hcarry => ?carry, ?second⟩⟩
  case words => rw [length_wordsOf]; omega
  case sum => have := wordSum_le b; omega
  case first => rw [fold16_eq]; omega
  case carry =>
    rw [show (0xFFFF : Nat) = 2 ^ 16 - 1 from rfl, Nat.and_two_pow_sub_one_eq_mod, Nat.shiftRight_eq_div_pow]
    rw [fold16_eq] at hcarry ⊢
    omega
  case second => exact (OnesComplement.of_folds hx).le

/-- Settles O26. -/
theorem checksumResidue : Obligations.ChecksumResidue := by
  intro b hb
  obtain ⟨-, hmod, hzero⟩ := onesComplement_csum16 hb
  exact ⟨csum16_eq_ones_iff hb, csum16_eq_zero_iff hb, fun hpos => ⟨by omega, hmod⟩⟩

/-- Settles O27. -/
theorem oddLengthPadsOneZeroByte : Obligations.OddLengthPadsOneZeroByte :=
  fun _ hb => ⟨wordSum_append_zero hb, csum16_congr (wordSum_append_zero hb)⟩

/-- Settles O28: the sum of the words does not depend on their order. -/
theorem wordOrderDoesNotMatter : Obligations.WordOrderDoesNotMatter := by
  intro ws ws' hperm
  apply csum16_congr
  rw [wordSum_flatMap_wordBytes, wordSum_flatMap_wordBytes, (hperm.map _).sum_eq]

/-- Settles O29: the folded sum and the incremental one are both the one's-complement value of the word sum. -/
theorem endAroundCarryAgrees : Obligations.EndAroundCarryAgrees := by
  intro b hb
  have hinc : OnesComplement ((wordsOf b).foldl endAroundAdd 0) (wordSum b) := by
    rw [wordSum_eq_sum_wordsOf, ← Nat.zero_add (wordsOf b).sum]
    exact OnesComplement.foldl_endAroundAdd ⟨by decide, rfl, Iff.rfl⟩ (wordsOf_le b)
  rw [csum16, (OnesComplement.of_folds (wordSum_lt hb)).unique hinc Iff.rfl rfl]

/-- Settles O32. -/
theorem congruentSumsAreNotDistinguished : Obligations.CongruentSumsAreNotDistinguished :=
  fun _ _ hb hb' hpos hpos' hmod => csum16_eq_of_residue hb hb' (by omega) hmod

/-- Settles O30: the sums differ by 65535, and the other word keeps both positive. -/
theorem zeroAndAllOnesWordsAlike : Obligations.ZeroAndAllOnesWordsAlike := by
  intro pre post hlen ⟨w, hw, hne⟩
  have hsum (x : Half) : wordSum ((pre ++ x :: post).flatMap wordBytes) =
      ((pre ++ post).map BitVec.toNat).sum + x.toNat := by
    rw [wordSum_flatMap_wordBytes, (List.perm_middle.map _).sum_eq, List.map_cons, List.sum_cons, Nat.add_comm]
  have hbytes (x : Half) : ((pre ++ x :: post).flatMap wordBytes).length ≤ 131074 := by
    rw [length_flatMap_wordBytes, List.length_append, List.length_cons]
    omega
  have hw_le := List.le_sum_of_mem (List.mem_map_of_mem (f := BitVec.toNat) hw)
  have hw_pos : 0 < w.toNat := by bv_omega
  refine csum16_eq_of_residue (hbytes _) (hbytes _) ?_ ?_
  · rw [hsum, hsum, BitVec.toNat_ofNat, BitVec.toNat_ofNat]; omega
  · rw [hsum, hsum, BitVec.toNat_ofNat, BitVec.toNat_ofNat]; omega

/-- Storing a word in zeroed bytes 4-5 adds its value to the sum (R60, R69). -/
theorem wordSum_store_checksum {b : List Byte} (hb : 6 ≤ b.length) (c : Half) :
    wordSum ((b.set 4 (c.extractLsb' 8 8)).set 5 (c.extractLsb' 0 8)) =
      wordSum ((b.set 4 0x00#8).set 5 0x00#8) + c.toNat := by
  have hstore : (((b.set 4 0x00#8).set 5 0x00#8).set 4 (c.extractLsb' 8 8)).set 5 (c.extractLsb' 0 8) =
      (b.set 4 (c.extractLsb' 8 8)).set 5 (c.extractLsb' 0 8) := by
    rw [List.set_comm _ _ (show 5 ≠ 4 by decide), List.set_set, List.set_set]
  rw [← hstore, wordSum_set_of_zero (by simp; omega) (by simp), wordSum_set_of_zero (by simp; omega) (by simp),
    show byteWeight 4 = 256 from rfl, show byteWeight 5 = 1 from rfl, ← toNat_eq_bytes c]
  omega

/-- Settles O31: the stored checksum complements the sum of the rest to a positive multiple of 65535. -/
theorem embeddedChecksumVerifies : Obligations.EmbeddedChecksumVerifies := by
  intro b hmin hmax
  obtain ⟨-, hmod, hzero⟩ := onesComplement_csum16 (b := (b.set 4 0x00#8).set 5 0x00#8) (by simpa using hmax)
  have hlt := (csum16 ((b.set 4 0x00#8).set 5 0x00#8)).isLt
  rw [csum16_eq_zero_iff (by simpa using hmax), wordSum_store_checksum hmin]
  omega

section FlipBit
variable {b : Byte} {j : Nat}

theorem flipBit_eq_xor_twoPow : flipBit b j = b ^^^ BitVec.twoPow 8 j := rfl

theorem flipBit_flipBit : flipBit (flipBit b j) j = b := by
  rw [flipBit, flipBit, BitVec.xor_assoc, BitVec.xor_self, BitVec.xor_zero]

/-- Flipping a clear bit adds its value: it carries nowhere. -/
theorem flipBit_toNat_of_clear (hj : j < 8) (hclear : b.getLsbD j = false) :
    (flipBit b j).toNat = b.toNat + 2 ^ j := by
  have hdisjoint : b &&& BitVec.twoPow 8 j = 0#8 := by simp [BitVec.and_twoPow, hclear]
  have hxor : b ^^^ BitVec.twoPow 8 j = b ||| BitVec.twoPow 8 j := by
    ext k hk
    by_cases h : k = j
    · have hk' : b[k] = false := by rw [← BitVec.getLsbD_eq_getElem, h, hclear]
      simp [hk']
    · simp [h]
  rw [flipBit_eq_xor_twoPow, hxor, ← BitVec.add_eq_or_of_and_eq_zero _ _ hdisjoint,
    BitVec.toNat_add_of_and_eq_zero hdisjoint, BitVec.toNat_twoPow_of_lt hj]

/-- Flipping bit `j` moves a byte's value by `2 ^ j`, up or down. -/
theorem flipBit_toNat (hj : j < 8) :
    (flipBit b j).toNat = b.toNat + 2 ^ j ∨ b.toNat = (flipBit b j).toNat + 2 ^ j := by
  cases hbit : b.getLsbD j with
  | false => exact .inl (flipBit_toNat_of_clear hj hbit)
  | true =>
    have hclear : (flipBit b j).getLsbD j = false := by simp [flipBit_eq_xor_twoPow, hbit, hj]
    have h := flipBit_toNat_of_clear hj hclear
    rw [flipBit_flipBit] at h
    exact .inr h

/-- No flipped bit of a verifying sequence goes undetected: it moves the sum by at most 0x8000 (R75 item 1). -/
theorem csum16_set_flipBit_ne_zero {bs : List Byte} (hlen : bs.length ≤ 131074) (h : csum16 bs = 0x0000#16) {i : Nat}
    (hi : i < bs.length) (hj : j < 8) : csum16 (bs.set i (flipBit bs[i] j)) ≠ 0x0000#16 := by
  have hset := wordSum_set hi (flipBit bs[i] j)
  obtain ⟨hw_pos, hw_le⟩ := byteWeight_bounds i
  have hj_le : 2 ^ j ≤ 2 ^ 7 := Nat.pow_le_pow_right (by decide) (by omega)
  have hd_pos : 0 < byteWeight i * 2 ^ j := Nat.mul_pos hw_pos (Nat.two_pow_pos j)
  have hd_le : byteWeight i * 2 ^ j ≤ 256 * 2 ^ 7 := Nat.mul_le_mul hw_le hj_le
  refine csum16_ne_zero_of_near (d := byteWeight i * 2 ^ j) hlen (by simpa using hlen) ⟨hd_pos, by omega⟩ ?_ h
  obtain hup | hdown := flipBit_toNat (b := bs[i]) hj
  · rw [hup, Nat.mul_add] at hset
    omega
  · have hdown := congrArg (byteWeight i * ·) hdown
    simp only [Nat.mul_add] at hdown
    omega

end FlipBit

section Commands
variable {s : State}

/-- Writing a frame byte replaces it in the bytes the commands sum (R10). -/
theorem frameBytes_write (hwf : s.frame.wf = true) (n i : Nat) (x : Byte) :
    frameBytes { s with frame := s.frame.write i x } n = (frameBytes s n).set i x := by
  refine List.ext_getElem (by simp [frameBytes]) fun k _ _ => ?_
  simp [frameBytes, List.getElem_set, Memory.read_write hwf, eq_comm (a := k)]

/-- DECODE of a datagram of the right size that does not verify fails BAD_CSUM, with the result in CSUM (R85, R97). -/
theorem exec_decode_of_badCsum (hsize : s.rxSize.toNat % 65536 = 1446)
    (hsum : csum16 (frameBytes s 1446) ≠ 0x0000#16) :
    exec .decode s = .next { s with
      csum := (csum16 (frameBytes s 1446)).setWidth 32, status := errorStatus (opcode .decode) .badCsum
      rxHdr := 0#32, plen := 0#32 } := by
  rw [← rxSizeSize_toNat] at hsize
  rw [← verification_hw] at hsum ⊢
  rw [exec_decode, runDecode, hw_frameLen, if_neg (not_not.2 hsize), decodeVerified, if_pos hsum, raiseCmdError_decode]

/-- `CS_LEN.N` as a number (R24). -/
theorem csLenN_toNat (r : Word) : (csLenN r).toNat = r.toNat % 65536 := by
  rw [csLenN, BitVec.extractLsb'_toNat, Nat.shiftRight_zero]

end Commands

/-- Settles O43: the flipped byte moves the frame's sum off every multiple of 65535, and DECODE reports it. -/
theorem singleBitErrorsAreDetected : Obligations.SingleBitErrorsAreDetected := by
  intro s i j hwf hsize hsum hi hj
  have hlen : (frameBytes s 1446).length = 1446 := by simp [frameBytes]
  have hi' : i < (frameBytes s 1446).length := by omega
  have hbyte : (frameBytes s 1446)[i] = s.frame.read i := by simp [frameBytes]
  have hne := csum16_set_flipBit_ne_zero (by omega) hsum hi' hj
  rw [hbyte, ← frameBytes_write hwf] at hne
  exact ⟨_, hne, exec_decode_of_badCsum hsize hne⟩

/-- Settles O33: the two branches of the command, N read from bits 15:0 of CS_LEN. -/
theorem csumCommand : Obligations.CsumCommand := by
  refine ⟨decode_eq_of_row .csum _ rfl, fun s => ⟨fun hn => ?inside, fun hn => ?range⟩⟩
  case inside =>
    rw [exec_csum, runCsum, csLenN_toNat, hw_frameLen, if_neg (Nat.not_lt.2 hn), frameBytes_eq_bytes]
    rfl
  case range =>
    rw [exec_csum, runCsum, csLenN_toNat, hw_frameLen, if_pos hn, raiseCmdError_of_ne_decode (i := .csum) nofun]
    rfl

end Sys2Proof.Machine

end

section
/-! ### Scope: the frame ENCODE builds (R77, R78, R82), and DECODE of it (R74, R79, R87, R88) -/

namespace Sys2Proof.Machine

/-- A byte of a word as a number (R11). -/
theorem extractByte_toNat (v : Word) (k : Nat) : (v.extractLsb' k 8).toNat = v.toNat / 2 ^ k % 256 := by
  rw [BitVec.extractLsb'_toNat, Nat.shiftRight_eq_div_pow]

/-- A byte of a header whose two high bits are 0 is a sequence number: at most 63 (R19, R79). -/
theorem byte_le_of_high_zero {h : Word} {start : Nat} (hz : h.extractLsb' (start + 6) 2 = 0#2) :
    (h.extractLsb' start 8).toNat ≤ 63 := by
  have hlt := (h.extractLsb' start 6).isLt
  rw [byte_eq_setWidth_of_high_zero hz, BitVec.toNat_setWidth_of_le (by decide)]
  omega

/-- A memory that differs from another in bytes 4-5 alone has its byte sequence with those two set (R10, R60). -/
theorem Memory.bytes_eq_set_checksum {m m' : Memory} {x y : Byte} (h4 : m'.read 4 = x) (h5 : m'.read 5 = y)
    (hrest : ∀ i, i ≠ 4 → i ≠ 5 → m'.read i = m.read i) (n : Nat) :
    m'.bytes 0 n = ((m.bytes 0 n).set 4 x).set 5 y := by
  refine List.ext_getElem (by simp) fun k _ _ => ?_
  simp only [Memory.bytes_eq_map, List.getElem_set, List.getElem_map, List.getElem_range, Nat.zero_add]
  split
  next hk => rw [← hk, h5]
  next hk5 =>
    split
    next hk => rw [← hk, h4]
    next hk4 => exact hrest k (Ne.symm hk4) (Ne.symm hk5)

section FrameBuilt
variable {s : State} (hwf : s.frame.wf = true)
include hwf

/-- The encoded frame byte by byte: the checksum in bytes 4-5, every other byte as assembled (R77). -/
theorem encodedFrame_read (i : Nat) :
    (encodedFrame s).read i =
      if i = 4 then (encodedSum s).extractLsb' 8 8 else if i = 5 then (encodedSum s).extractLsb' 0 8
      else (assembleFrame hw s.frame s.txHdr).read i :=
  Memory.read_write16 (assembleFrame_wf hw _ hwf) 4 i _

/-- The checksum field of the encoded frame is the checksum, high byte first (R77). -/
theorem encodedFrame_read_checksum :
    (encodedFrame s).read 4 = (encodedSum s).extractLsb' 8 8 ∧
      (encodedFrame s).read 5 = (encodedSum s).extractLsb' 0 8 := by
  simp [encodedFrame_read hwf]

/-- The padding of the encoded frame is zero (R77). -/
theorem encodedFrame_read_of_padding {i : Nat} (hlo : 6 + (hdrLen s.txHdr).toNat ≤ i) (hhi : i < 1446) :
    (encodedFrame s).read i = 0#8 := by
  rw [encodedFrame_read hwf, if_neg (by omega), if_neg (by omega), assembleFrame_read hw _ hwf, hw_headerLen,
    hw_frameLen, if_neg (by omega), if_neg (by omega), if_neg (by omega), if_neg (by omega), if_neg (by omega),
    if_pos ⟨hlo, hhi⟩]

/-- The assembled frame is the encoded one with its checksum field zero (R77). -/
theorem assembleFrame_read_eq_encodedFrame (i : Nat) :
    (assembleFrame hw s.frame s.txHdr).read i = if i = 4 ∨ i = 5 then 0#8 else (encodedFrame s).read i := by
  split
  next hfield => rw [assembleFrame_read hw _ hwf, if_pos hfield]
  next hfield => rw [encodedFrame_read hwf, if_neg (by omega), if_neg (by omega)]

/-- The checksum in the encoded frame is that of its 1446 bytes with bytes 4-5 zero (R77). -/
theorem encodedSum_eq_csum16_cleared :
    encodedSum s =
      csum16 ((List.range 1446).map fun i => if i = 4 ∨ i = 5 then 0#8 else (encodedFrame s).read i) := by
  rw [encodedSum, Memory.bytes_eq_map]
  simp only [Nat.zero_add, assembleFrame_read_eq_encodedFrame hwf]

/-- The header of the encoded frame, read as one word, is TX_HDR (R42, R64). -/
theorem encodedFrame_read32 : (encodedFrame s).read32 0 = s.txHdr := by
  obtain ⟨h0, h1, h2, h3⟩ := encodedFrame_read_header hwf
  rw [Memory.read32, h0, h1, h2, h3, append_bytes_eq]

/-- LENGTH of the encoded frame, over its first two bytes, is LEN (R60, R79). -/
theorem encodedFrame_length :
    ((encodedFrame s).read 0).toNat % 8 * 256 + ((encodedFrame s).read 1).toNat = (hdrLen s.txHdr).toNat := by
  obtain ⟨h0, h1, -, -⟩ := encodedFrame_read_header hwf
  rw [h0, h1, extractByte_toNat, extractByte_toNat, hdrLen_toNat]
  omega

/-- The encoded frame verifies: it stores the checksum taken with the field zero (R74, R79). -/
theorem csum16_encodedFrame {t : State} (ht : t.frame = encodedFrame s) :
    csum16 (frameBytes t 1446) = 0x0000#16 := by
  have hread := assembleFrame_read_eq_encodedFrame hwf
  have hcleared : (assembleFrame hw s.frame s.txHdr).bytes 0 1446 =
      (((encodedFrame s).bytes 0 1446).set 4 0#8).set 5 0#8 :=
    Memory.bytes_eq_set_checksum (hread 4) (hread 5) (fun i h4 h5 => by rw [hread, if_neg (by omega)]) 1446
  obtain ⟨h4, h5⟩ := encodedFrame_read_checksum hwf
  have hstored : (encodedFrame s).bytes 0 1446 = (((encodedFrame s).bytes 0 1446).set 4
      ((encodedSum s).extractLsb' 8 8)).set 5 ((encodedSum s).extractLsb' 0 8) :=
    Memory.bytes_eq_set_checksum h4 h5 (fun _ _ _ => rfl) 1446
  have hverify := embeddedChecksumVerifies ((encodedFrame s).bytes 0 1446) (by simp) (by simp)
  rwa [← hcleared, ← encodedSum, ← hstored, ← ht, ← frameBytes_eq_bytes] at hverify

end FrameBuilt

/-- ENCODE with LEN above 1440 fails LEN_RANGE and changes STATUS alone (R82, R97). -/
theorem exec_encode_of_len_gt {s : State} (hlen : 1440 < (hdrLen s.txHdr).toNat) :
    exec .encode s = .next { s with status := errorStatus (opcode .encode) .lenRange } := by
  rw [exec_encode, runEncode, hw_maxPayloadLen, if_pos hlen, raiseCmdError_of_ne_decode (i := .encode) nofun]

/-- DECODE of a datagram that passes the three checks delivers its header and its clamped length (R87, R88). -/
theorem exec_decode_of_valid {s : State} (hsize : s.rxSize.toNat % 65536 = 1446)
    (hsum : csum16 (frameBytes s 1446) = 0x0000#16) (hver : hdrVer (s.frame.read32 0) = 1#2) :
    exec .decode s = .next { s with
      csum := 0x00000000#32, rxHdr := s.frame.read32 0, status := successStatus (opcode .decode) true
      plen := BitVec.ofNat 32 (min (hdrLen (s.frame.read32 0)).toNat 1440) } := by
  rw [exec_decode]
  have heffect := runDecode_effect s
  generalize runDecode hw s = t at heffect ⊢
  cases heffect with
  | decoded => rw [hdrLen_read32]; rfl
  | badSize hne => exact absurd ((rxSizeSize_toNat _).trans hsize) hne
  | badCsum _ hne => exact absurd ((verification_hw s).trans hsum) hne
  | badVersion _ _ hne => exact absurd ((hdrVer_read32 _ 0).symm.trans hver) hne
  | illegal hi => simp at hi

/-- DECODE of an encoded frame of version 1 returns the header and the length it was encoded from (R79). -/
theorem exec_decode_of_encodedFrame {s t : State} (hwf : s.frame.wf = true) (hlen : (hdrLen s.txHdr).toNat ≤ 1440)
    (hver : hdrVer s.txHdr = 1#2) (hframe : t.frame = encodedFrame s) (hsize : t.rxSize.toNat % 65536 = 1446) :
    exec .decode t = .next { t with
      csum := 0x00000000#32, rxHdr := s.txHdr, status := successStatus (opcode .decode) true
      plen := BitVec.ofNat 32 (hdrLen s.txHdr).toNat } := by
  have hheader : t.frame.read32 0 = s.txHdr := by rw [hframe, encodedFrame_read32 hwf]
  rw [exec_decode_of_valid hsize (csum16_encodedFrame hwf hframe) (hheader.symm ▸ hver), hheader,
    Nat.min_eq_left hlen]

/-- Settles O34: the encoded frame's bytes, part by part, and the failure that writes nothing but STATUS. -/
theorem encodeBuildsFrame : Obligations.EncodeBuildsFrame := by
  refine ⟨decode_eq_of_row .encode _ rfl, fun s hwf => ?_⟩
  rw [← hdrLen_toNat]
  refine ⟨fun hlen => ?_, exec_encode_of_len_gt⟩
  refine ⟨encodedFrame s, encodedSum s, exec_encode_of_len_le hlen, encodedSum_eq_csum16_cleared hwf, ?_⟩
  obtain ⟨h0, h1, h2, h3⟩ := encodedFrame_read_header hwf
  obtain ⟨h4, h5⟩ := encodedFrame_read_checksum hwf
  refine ⟨?byte0, ?byte1, ?byte2, ?byte3, ?byte4, ?byte5,
    fun i h6 hi => encodedFrame_read_of_payload hwf h6 (.inl hi), fun i => encodedFrame_read_of_padding hwf,
    fun i hi => encodedFrame_read_of_payload hwf (by omega) (.inr hi), encodedFrame_wf hwf⟩
  case byte0 => rw [h0, extractByte_toNat]; omega
  case byte1 => rw [h1, extractByte_toNat]
  case byte2 => rw [h2, extractByte_toNat]
  case byte3 => rw [h3, extractByte_toNat]; omega
  case byte4 => rw [h4, ← toNat_eq_bytes (encodedSum s)]; omega
  case byte5 => rw [h5, ← toNat_eq_bytes (encodedSum s)]; omega

/-- Settles O36: the encoded frame verifies, its header word is TX_HDR with VERSION 1, so DECODE takes its success
branch and returns that word and the payload ENCODE left in place. -/
theorem encodedFramesDecodeToWhatWasEncoded : Obligations.EncodedFramesDecodeToWhatWasEncoded := by
  intro s hwf hlen
  obtain ⟨hm, -, -, hres, -, -⟩ := (State.wf_iff s).1 hwf
  obtain ⟨htx, -, -, -⟩ := (reservedOk_iff s).1 hres
  obtain ⟨-, -, h2, h3⟩ := encodedFrame_read_header hm
  have hver : hdrVer s.txHdr = 1#2 := txHdr_reserved_field htx 30 2 (by decide)
  rw [← hdrLen_toNat] at hlen ⊢
  refine ⟨_, exec_encode_of_len_le hlen, by simp [frameBytes], ?version, ?seq, ?ackn, encodedFrame_length hm,
    fun i => encodedFrame_read_of_padding hm, ?verifies, _, ?decodes, rfl, ?payload⟩
  case version => exact (w0Version_read16_eq_one_iff _ 0).1 (by rw [← hdrVer_read32, encodedFrame_read32 hm, hver])
  case seq => rw [h2]; exact byte_le_of_high_zero (txHdr_reserved_field htx 14 2 (by decide))
  case ackn => rw [h3]; exact byte_le_of_high_zero (txHdr_reserved_field htx 6 2 (by decide))
  case verifies => exact csum16_encodedFrame hm rfl
  case decodes => exact exec_decode_of_encodedFrame hm hlen hver rfl rfl
  case payload =>
    have hplen : (BitVec.ofNat 32 (hdrLen s.txHdr).toNat).toNat = (hdrLen s.txHdr).toNat := by
      rw [BitVec.toNat_ofNat, Nat.mod_eq_of_lt (by omega)]
    rw [deliveredPayload, hplen, hw_headerLen, Memory.bytes_eq_map]
    refine List.map_congr_left fun i hi => encodedFrame_read_of_payload hm (by omega) (.inl ?_)
    have := List.mem_range.1 hi
    omega

end Sys2Proof.Machine

end

section
/-! ### Scope: DECODE, one rule for each of its outcomes (R83 to R88), and the frame buffer it leaves alone (R90) -/

namespace Sys2Proof.Machine

section Received
variable (m : Memory) (a : Nat)

/-- VER of the received header is bits 7:6 of its first byte (R25, R66). -/
theorem hdrVer_read32_eq_one_iff : hdrVer (m.read32 a) = 1#2 ↔ (m.read a).toNat / 64 = 1 := by
  rw [hdrVer_read32, w0Version_read16_eq_one_iff]

/-- LEN of the received header as a number: the low three bits of its first byte, then its second (R25, R60). -/
theorem hdrLen_read32_toNat :
    (hdrLen (m.read32 a)).toNat = (m.read a).toNat % 8 * 256 + (m.read (a + 1)).toNat := by
  obtain ⟨h0, h1, -, -⟩ := read32_bytes m a
  rw [← h0, ← h1, extractByte_toNat, extractByte_toNat, hdrLen_toNat]
  omega

end Received

/-- With PLEN a payload length, the delivered payload is that many bytes from byte 6 on (R65, R88). -/
theorem deliveredPayload_of_plen {t : State} {n : Nat} (hplen : t.plen = BitVec.ofNat 32 n) (hn : n ≤ 1440) :
    deliveredPayload hw t = (List.range n).map fun i => t.frame.read (6 + i) := by
  have hcount : t.plen.toNat = n := by rw [hplen, BitVec.toNat_ofNat, Nat.mod_eq_of_lt (by omega)]
  rw [deliveredPayload, hcount, hw_headerLen, Memory.bytes_eq_map]

section Failures
variable {s : State}

/-- DECODE of a datagram of another size fails BAD_SIZE before any checksum, so CSUM stays (R84, R97). -/
theorem exec_decode_of_badSize (hsize : s.rxSize.toNat % 65536 ≠ 1446) :
    exec .decode s = .next { s with
      status := errorStatus (opcode .decode) .badSize, rxHdr := 0#32, plen := 0#32 } := by
  rw [← rxSizeSize_toNat] at hsize
  rw [exec_decode, runDecode, hw_frameLen, if_pos hsize, raiseCmdError_decode]

/-- DECODE of a datagram that verifies but has another version fails BAD_VERSION, the result 0 in CSUM (R86, R97). -/
theorem exec_decode_of_badVersion (hsize : s.rxSize.toNat % 65536 = 1446)
    (hsum : csum16 (frameBytes s 1446) = 0x0000#16) (hver : (s.frame.read 0).toNat / 64 ≠ 1) :
    exec .decode s = .next { s with
      csum := 0#32, status := errorStatus (opcode .decode) .badVersion, rxHdr := 0#32, plen := 0#32 } := by
  rw [← rxSizeSize_toNat] at hsize
  rw [← verification_hw] at hsum
  have hver : w0Version (s.frame.read16 0) ≠ hw.version := mt (w0Version_read16_eq_one_iff _ _).1 hver
  rw [exec_decode, runDecode, hw_frameLen, if_neg (not_not.2 hsize), decodeVerified, if_neg (not_not.2 hsum),
    if_pos hver, raiseCmdError_decode, hsum]
  rfl

end Failures

/-- Settles O40: of all a command can do, only an ENCODE changes the frame buffer. -/
theorem onlyEncodeWritesTheFrame : Obligations.OnlyEncodeWritesTheFrame := by
  intro i s t hi he
  by_contra hne
  obtain ⟨hencode, -, -⟩ := (exec_effect he).encoded_of_frame_ne hne
  exact hi hencode

/-- Settles O38: one rule of DECODE for each clause; the error words are the literals of the claim. -/
theorem decodeReportsTheFirstFailure : Obligations.DecodeReportsTheFirstFailure := by
  refine fun s => ⟨exec_decode_of_badSize, exec_decode_of_badCsum, exec_decode_of_badVersion,
    fun hsize hsum hver => ?_⟩
  exact ⟨_, exec_decode_of_valid hsize hsum ((hdrVer_read32_eq_one_iff _ 0).2 hver),
    statusErr_successStatus _ _, rfl⟩

/-- Settles O37: DECODE's success rule, with the header word and its LEN field read byte by byte. -/
theorem decodeOfAValidFrame : Obligations.DecodeOfAValidFrame := by
  intro s hsize hsum hver
  have hexec := exec_decode_of_valid hsize hsum ((hdrVer_read32_eq_one_iff _ 0).2 hver)
  rw [hdrLen_read32_toNat] at hexec
  exact ⟨_, hexec, rfl, deliveredPayload_of_plen rfl (Nat.min_le_right _ _)⟩

end Sys2Proof.Machine

end

section
/-! ### Scope: the control commands on the port: a CMD write of a NOP word (R91) and of a reserved word (R92) -/

namespace Sys2Proof.Machine

/-- The words from 4 on that the encoder writes are those of the twelve reserved codes (R56, R58). -/
theorem four_le_encode_iff (i : Instr) : 0x4#32 ≤ encode i ↔ i ∉ [Instr.nop, .encode, .decode, .csum] := by
  cases i <;> decide

/-- A word whose bits 3:0 are at least 4 decodes to a reserved code (R58). -/
theorem decode_reserved {v : Word} (h : 0x4#32 ≤ v &&& 0x0000000F#32) :
    decode v ∉ [Instr.nop, .encode, .decode, .csum] := by
  rwa [← four_le_encode_iff, encode_decode]

/-- The error word of R97, `(op << 8) | (cause << 4) | 1`. -/
theorem errorStatus_eq_or (op : BitVec 4) (c : Cause) :
    errorStatus op c = op.setWidth 32 <<< 8 ||| (causeCode c).setWidth 32 <<< 4 ||| 0x1#32 := by
  revert op; cases c <;> decide

/-- The error word of ILLEGAL_CMD, written with the command word of the code (R92). -/
theorem errorStatus_illegalCmd (i : Instr) :
    errorStatus (opcode i) .illegalCmd = 0x00000051#32 ||| encode i <<< 8 := by
  rw [errorStatus_eq_or, BitVec.or_assoc, BitVec.or_comm, encode]
  rfl

/-- Settles O21: the word decodes to a reserved code, whose command word is `v` with its ignored bits cleared. -/
theorem reservedWordsFailOnThePort : Obligations.ReservedWordsFailOnThePort := by
  intro s v later hp hv
  have hexec := exec_reserved_illegal { s with pending := later } (decode v) (decode_reserved hv)
  rw [errorStatus_illegalCmd, encode_decode] at hexec
  exact step_of_commandWrite hp hexec

/-- Settles O19: a word with bits 3:0 zero decodes to NOP, so its step only takes the input and answers `Ok`. -/
theorem nopChangesNothing : Obligations.NopChangesNothing := by
  refine ⟨exec_nop, fun s v later hp hv => ?_⟩
  have hexec : exec (decode v) { s with pending := later } = .next { s with pending := later } := by
    rw [decode_eq_of_row .nop v hv, exec_nop]
  exact step_of_commandWrite hp hexec

end Sys2Proof.Machine

end

section
/-! ### Scope: what a command error changes and what it leaves (R97, R100), and the idle block (R108) -/

namespace Sys2Proof.Machine

/-- With no input of the host a step keeps the state (R108). -/
theorem step_of_pending_nil {s : State} (hp : s.pending = []) : step s = .next s := by
  rw [step, takeInput, hp]

/-- Settles O5. -/
theorem idleBlockKeepsState : Obligations.IdleBlockKeepsState :=
  fun _ hp => step_of_pending_nil hp

/-- The cause of an error word reads back (R97). -/
theorem statusCause_errorStatus (op : BitVec 4) (c : Cause) : statusCause (errorStatus op c) = causeCode c := by
  obtain ⟨-, hcause, -, -⟩ := statusWord_fields op (causeCode c) false true
  exact hcause

namespace CommandEffect
variable {s t : State} {i : Instr}

/-- A command that ends with ERR set wrote the error word of its own code and of the cause it reports (R97). -/
theorem status_of_err (h : CommandEffect s i t) (hi : i ≠ .nop) (herr : statusErr t.status = true) :
    t.status = (opcode i).setWidth 32 <<< 8 ||| (statusCause t.status).setWidth 32 <<< 4 ||| 0x1#32 := by
  obtain ⟨-, hst⟩ | ⟨c, hst, -⟩ := h.status_cases hi
  · rw [hst, statusErr_successStatus] at herr
    cases herr
  · rw [hst, statusCause_errorStatus, errorStatus_eq_or]

/-- A failed command other than DECODE changed STATUS alone (R97); NOP changes nothing at all (R91). -/
theorem eq_withStatus_of_err (h : CommandEffect s i t) (herr : statusErr t.status = true) (hd : i ≠ .decode) :
    t = { s with status := t.status } := by
  cases h with
  | nop | encodeRange | csumRange | illegal => rfl
  | encoded | summed => simp [statusErr_successStatus] at herr
  | decoded | badSize | badCsum | badVersion => exact absurd rfl hd

/-- A failed DECODE cleared its outputs and kept the rest but CSUM, which it wrote only after the size check (R97). -/
theorem eq_cleared_of_decode_err (h : CommandEffect s .decode t) (herr : statusErr t.status = true) :
    t = { s with status := t.status, rxHdr := 0#32, plen := 0#32, csum := t.csum } ∧
      (statusCause t.status = 1#4 → t.csum = s.csum) := by
  cases h with
  | decoded => simp [statusErr_successStatus] at herr
  | badSize => exact ⟨rfl, fun _ => rfl⟩
  | badCsum | badVersion => exact ⟨rfl, fun hc => by simp [statusCause_errorStatus, causeCode] at hc⟩
  | illegal hi => simp at hi

end CommandEffect

/-- Settles O24: the error word, then the frame of a failure, of DECODE and of any other command. -/
theorem commandErrorsArePrecise : Obligations.CommandErrorsArePrecise := by
  intro i s t hi h herr
  have heff := exec_effect h
  refine ⟨heff.status_of_err hi herr, heff.eq_withStatus_of_err herr, ?_⟩
  rintro rfl
  exact heff.eq_cleared_of_decode_err herr

end Sys2Proof.Machine

end

section
/-! ### Scope: the three commands directly after reset (R111), and that every command and every step completes (R116) -/

namespace Sys2Proof.Machine

section EmptyFrame

/-- The bytes of a buffer that lists nothing are zero (R30). -/
theorem Memory.bytes_nil (a n : Nat) : Memory.bytes [] a n = List.replicate n 0#8 := by
  simp [Memory.bytes_eq_map]

/-- The bytes of a buffer that lists byte 0 alone: that byte, then zeros. -/
theorem Memory.bytes_listed_zero (x : Byte) (n : Nat) :
    Memory.bytes [(0, x)] 0 (n + 1) = x :: List.replicate n 0#8 := by
  have hrest : Memory.bytes [(0, x)] 1 n = Memory.bytes [] 1 n :=
    Memory.bytes_congr fun i _ => if_neg (by omega)
  rw [Memory.bytes, hrest, Memory.bytes_nil]
  rfl

/-- Zero bytes add nothing to the sum (R69). -/
theorem wordSum_replicate_zero (n : Nat) : wordSum (List.replicate n 0#8) = 0 := by
  induction n using Nat.twoStepInduction with
  | zero => rfl
  | one => rfl
  | more n ih _ => simp [List.replicate_succ, ih]

/-- Before its checksum is stored, the frame ENCODE assembles at reset lists the version byte alone (R64, R80). -/
theorem assembleFrame_reset : assembleFrame hw State.reset.frame State.reset.txHdr = [(0, 0x40#8)] := by decide

/-- The checksum of the empty frame is the complement of its one non-zero word, 0x4000 (R80). -/
theorem encodedSum_reset : encodedSum State.reset = 0xBFFF#16 := by
  have hsum : wordSum (0x40#8 :: List.replicate 1445 0#8) = 0x4000 := by
    rw [List.replicate_succ, wordSum_cons_cons, wordSum_replicate_zero]
    rfl
  rw [encodedSum, assembleFrame_reset, Memory.bytes_listed_zero, csum16, hsum]
  decide

/-- The empty frame lists its version byte and its two checksum bytes (R80). -/
theorem encodedFrame_reset : encodedFrame State.reset = [(0, 0x40#8), (4, 0xBF#8), (5, 0xFF#8)] := by
  rw [encodedFrame, assembleFrame_reset, encodedSum_reset]
  decide

end EmptyFrame

/-- Settles O8: ENCODE's frame is the empty one, DECODE meets RX_SIZE = 0, and CSUM sums no byte. -/
theorem commandsDirectlyAfterReset : Obligations.CommandsDirectlyAfterReset := by
  have hlen : (hdrLen State.reset.txHdr).toNat = 0 := by decide
  refine ⟨⟨_, exec_encode_of_len_le (by omega), ?header, fun i h6 hi => ?padding⟩, ?decode, ?csum⟩
  case header => rw [frameBytes, encodedFrame_reset]; decide
  case padding => exact encodedFrame_read_of_padding rfl (by omega) hi
  case decode => exact exec_decode_of_badSize (by decide)
  case csum =>
    obtain ⟨-, hcsum⟩ := csumCommand
    exact (hcsum State.reset).1 (by decide)

/-- Every command answers a next state: the four named ones and the twelve reserved codes (R116). -/
theorem exists_exec_next (i : Instr) (s : State) : ∃ t, exec i s = .next t := by
  cases i with
  | nop => exact ⟨_, exec_nop s⟩
  | encode => exact ⟨_, exec_encode s⟩
  | decode => exact ⟨_, exec_decode s⟩
  | csum => exact ⟨_, exec_csum s⟩
  | _ => exact ⟨_, exec_reserved s (by decide)⟩

/-- Every input of the host, and the lack of one, leads to a next state (R108, R109, R116). -/
theorem safeStep (s : State) : SafeStep s := by
  match hp : s.pending with
  | [] => exact ⟨_, step_of_pending_nil hp⟩
  | .reset :: later => exact ⟨_, step_of_pending_reset hp⟩
  | .access t :: later =>
    cases hc : commandWord t with
    | none => exact ⟨_, step_of_plainAccess hp hc⟩
    | some v =>
      rw [(commandWord_eq_some_iff t v).1 hc] at hp
      obtain ⟨u, hu⟩ := exists_exec_next (decode v) { s with pending := later }
      exact ⟨_, step_of_commandWrite hp hu⟩

/-- Settles O9. -/
theorem everyStepCompletes : Obligations.EveryStepCompletes := ⟨exists_exec_next, safeStep⟩

end Sys2Proof.Machine

end
